-- ==== Sys2Proof/Word.lean ====
section
/-! DEFINITION. The two word types of the GIMLI core (00_scope.md R7, R8): 32-bit words and bytes, both unsigned. -/

namespace Sys2Proof

/-- An 8-bit byte: a DMEM byte, a state byte, an immediate (R66, R90). -/
abbrev Byte := BitVec 8

/-- A 32-bit word: a state word, a command word, an operand register (R7, XLEN). -/
abbrev Word := BitVec 32

end Sys2Proof
end

