-- ==== Sys2Proof/Config.lean ====
section
/-! DEFINITION. What an implementation fixes (00_scope.md R5, R6, R7) and the free values the spec leaves open
(20_memory.md R86, R87; 70_reset_and_hazards.md R301). -/

namespace Sys2Proof

/-- RATE = 16 bytes, state bytes 0..15 (R5). -/
abbrev Config.rate : Nat := 16

/-- STATE_SIZE = 48 bytes (R5). -/
abbrev Config.stateSize : Nat := 48

/-- KEY_SIZE = 32 bytes (R5). -/
abbrev Config.keySize : Nat := 32

/-- NONCE_SIZE = 16 bytes (R5). -/
abbrev Config.nonceSize : Nat := 16

/-- TAG_SIZE = 16 bytes (R5). -/
abbrev Config.tagSize : Nat := 16

/-- DIGEST_SIZE = 32 bytes (R5). -/
abbrev Config.digestSize : Nat := 32

/-- ROUNDS = 24, numbered 24 down to 1 (R5). -/
abbrev Config.rounds : Nat := 24

/-- RC_BASE = 0x9E377900 (R5). -/
abbrev Config.rcBase : Word := 0x9E377900#32

/-- DOMAIN = 0x01, for AEAD AAD, AEAD message and hash (R5). -/
abbrev Config.domain : Byte := 0x01#8

/-- PAD_TERM_INDEX = 47, the state byte the terminator goes to (R6). -/
abbrev Config.padTermIndex : Nat := 47

/-- The parameters the spec lets a model take (R6, R7, U13, U23). They are fixed for one machine: no step writes them.
DESIGN CHOICE (safe, log 4 and log 5): they stand in `State` so that a statement about every state holds for every
choice of them. -/
structure Params where
  /-- DMEM_SIZE (R7): OPEN, 64 ≤ DMEM_SIZE ≤ 2^32. -/
  dmemSize : Nat
  /-- PAD_TERM (R6): 0x80 unless the interoperability variant is chosen. -/
  padTerm : Byte
  /-- TAG_BASE (R6): 32 unless the interoperability variant is chosen; the 16 tag bytes lie in state bytes 0..47. -/
  tagBase : Fin 33
  deriving DecidableEq, Repr

/-- The source's literals (R6), with the DMEM size of the spec's vectors (R7: "the test vectors take 4096";
DESIGN CHOICE, log 4). -/
def Params.literals : Params := { dmemSize := 4096, padTerm := 0x80#8, tagBase := 32 }

/-- The named interoperability variant (R6, 93_implementation_defined.md G1): PAD_TERM = 0x01, TAG_BASE = 0. -/
def Params.interop : Params := { dmemSize := 4096, padTerm := 0x01#8, tagBase := 0 }

/-- FREE VALUE (R86, R87, U6, U7; log 6): what DMEM byte `a` holds from power-up until something writes it. -/
opaque Config.powerUpByte : Nat → Byte

/-- FREE VALUE (R301, U8; log 8): the `n`-th byte drawn for a written region of a command that a reset aborted. -/
opaque Config.abortByte : Nat → Byte

end Sys2Proof
end

