-- ==== Sys2Proof/Syntax.lean ====
section
/-! DEFINITION. The 15 commands of the GIMLI core (30_encoding.md R94, spec/opcode_table.json), one constructor a row.
Address and length operands are not part of a command word: they stand in A0..A7 (R93). -/

namespace Sys2Proof

/-- A command (R94). Its immediate fields are the bytes IDX and IMM8 of the word (R90, R92). -/
inductive Instr where
  /-- PERMUTE, 0x01 (R139). -/
  | permute
  /-- STATE_ZERO, 0x02 (R140). -/
  | stateZero
  /-- STATE_LOAD, 0x03 (R141). -/
  | stateLoad
  /-- STATE_STORE, 0x04 (R142). -/
  | stateStore
  /-- STATE_XOR_BYTE, 0x05 (R143): IDX is the state byte index, IMM8 the value. -/
  | stateXorByte (idx imm8 : Byte)
  /-- DUPLEX_ABSORB, 0x10 (R175). -/
  | duplexAbsorb
  /-- DUPLEX_ABSORB_PAD, 0x11 (R176): IMM8 is the domain byte. -/
  | duplexAbsorbPad (imm8 : Byte)
  /-- DUPLEX_SQUEEZE, 0x12 (R177). -/
  | duplexSqueeze
  /-- AEAD_ENCRYPT, 0x20 (R207). -/
  | aeadEncrypt
  /-- AEAD_DECRYPT, 0x21 (R208). -/
  | aeadDecrypt
  /-- HASH_INIT, 0x30 (R230). -/
  | hashInit
  /-- HASH_UPDATE, 0x31 (R231). -/
  | hashUpdate
  /-- HASH_FINALIZE, 0x32 (R232). -/
  | hashFinalize
  /-- HASH_FINALIZE_XOF, 0x33 (R233). -/
  | hashFinalizeXof
  /-- HASH, 0x34 (R234). -/
  | hash
  deriving DecidableEq, Repr

end Sys2Proof
end

