-- ==== Sys2Proof/WellFormed.lean ====
section
/-! DEFINITION. What is well formed before it reaches the machine: the lines of a host program's pseudo-instructions
(30_encoding.md R99) and the parameters (00_scope.md R7). An `Instr` needs no check of its own: its fields are bytes,
and every byte is a legal encoding (R92: "Values 48..255 are legal encodings that STATE_XOR_BYTE rejects"). -/

namespace Sys2Proof

/-- A pseudo-instruction line of a host program (R99): a mnemonic with its operands in the order of R93, as the
numbers the programmer wrote. -/
inductive AsmLine where
  | permute
  | stateZero
  | stateLoad (addr : Nat)
  | stateStore (addr : Nat)
  | stateXorByte (idx val : Nat)
  | duplexAbsorb (addr len : Nat)
  | duplexAbsorbPad (dom : Nat)
  | duplexSqueeze (addr len : Nat)
  | aeadEncrypt (key nonce aad aadLen buf bufLen tag : Nat)
  | aeadDecrypt (key nonce aad aadLen buf bufLen tag : Nat)
  | hashInit
  | hashUpdate (addr len : Nat)
  | hashFinalize (addr : Nat)
  | hashFinalizeXof (addr len : Nat)
  | hash (addr len digest : Nat)
  /-- `check`: read the outcome, then clear DONE (R99). -/
  | check
  deriving DecidableEq, Repr

/-- The operands that go into the command word's byte fields (R90, R99). -/
def AsmLine.immediates : AsmLine → List Nat
  | .stateXorByte idx val => [idx, val]
  | .duplexAbsorbPad dom => [dom]
  | .permute | .stateZero | .stateLoad _ | .stateStore _ | .duplexAbsorb _ _ | .duplexSqueeze _ _
  | .aeadEncrypt _ _ _ _ _ _ _ | .aeadDecrypt _ _ _ _ _ _ _ | .hashInit | .hashUpdate _ _ | .hashFinalize _
  | .hashFinalizeXof _ _ | .hash _ _ _ | .check => []

/-- The operands that go into A0, A1, … in this order (R93, R99). -/
def AsmLine.operands : AsmLine → List Nat
  | .stateLoad a | .stateStore a | .hashFinalize a => [a]
  | .duplexAbsorb a n | .duplexSqueeze a n | .hashUpdate a n | .hashFinalizeXof a n => [a, n]
  | .hash a n d => [a, n, d]
  | .aeadEncrypt k n a al b bl t | .aeadDecrypt k n a al b bl t => [k, n, a, al, b, bl, t]
  | .permute | .stateZero | .stateXorByte _ _ | .duplexAbsorbPad _ | .hashInit | .check => []

/-- Every byte operand is in 0..255: otherwise the assembler "refuses the line: no word encodes it" (R99). -/
def AsmLine.immediatesFit (l : AsmLine) : Bool := l.immediates.all (· < 256)

/-- Every register operand is a 32-bit number (R36, R98: "32-bit register write of v"). -/
def AsmLine.operandsFit (l : AsmLine) : Bool := l.operands.all (· < 2 ^ 32)

/-- The lines an assembler accepts (R99). -/
def AsmLine.wf (l : AsmLine) : Bool := l.immediatesFit && l.operandsFit

/-- The parameters the spec allows (R7): 64 ≤ DMEM_SIZE ≤ 2^32. -/
abbrev Params.wf (p : Params) : Prop := 64 ≤ p.dmemSize ∧ p.dmemSize ≤ 2 ^ 32

end Sys2Proof
end

