-- ==== Sys2Proof/Decode.lean ====
section
/-! DEFINITION. Command decoding and encoding (30_encoding.md R90-R97): one 32-bit word, one format, decoded from the
word alone. -/

namespace Sys2Proof

/-- Field OP, bits 7:0 (R90). -/
def opField (w : Word) : Byte := w.extractLsb' 0 8

/-- Field IMM8, bits 15:8 (R90, R92: taken as an unsigned byte). -/
def imm8Field (w : Word) : Byte := w.extractLsb' 8 8

/-- Field IDX, bits 23:16 (R90, R92). -/
def idxField (w : Word) : Byte := w.extractLsb' 16 8

/-- Field RSV, bits 31:24 (R90: reserved, must be 0). -/
def rsvField (w : Word) : Byte := w.extractLsb' 24 8

/-- One row of the opcode map of R94: a word is the row's command when its masked bits equal `pattern` (R95);
`instr` takes the fields out of the word. -/
structure OpcodeRow where
  mask : Word
  pattern : Word
  instr : Word → Instr

/-- The opcode map (R94), in the table's order. -/
def opcodeTable : List OpcodeRow :=
  [ ⟨0xFFFFFFFF#32, 0x00000001#32, fun _ => .permute⟩,
    ⟨0xFFFFFFFF#32, 0x00000002#32, fun _ => .stateZero⟩,
    ⟨0xFFFFFFFF#32, 0x00000003#32, fun _ => .stateLoad⟩,
    ⟨0xFFFFFFFF#32, 0x00000004#32, fun _ => .stateStore⟩,
    ⟨0xFF0000FF#32, 0x00000005#32, fun w => .stateXorByte (idxField w) (imm8Field w)⟩,
    ⟨0xFFFFFFFF#32, 0x00000010#32, fun _ => .duplexAbsorb⟩,
    ⟨0xFFFF00FF#32, 0x00000011#32, fun w => .duplexAbsorbPad (imm8Field w)⟩,
    ⟨0xFFFFFFFF#32, 0x00000012#32, fun _ => .duplexSqueeze⟩,
    ⟨0xFFFFFFFF#32, 0x00000020#32, fun _ => .aeadEncrypt⟩,
    ⟨0xFFFFFFFF#32, 0x00000021#32, fun _ => .aeadDecrypt⟩,
    ⟨0xFFFFFFFF#32, 0x00000030#32, fun _ => .hashInit⟩,
    ⟨0xFFFFFFFF#32, 0x00000031#32, fun _ => .hashUpdate⟩,
    ⟨0xFFFFFFFF#32, 0x00000032#32, fun _ => .hashFinalize⟩,
    ⟨0xFFFFFFFF#32, 0x00000033#32, fun _ => .hashFinalizeXof⟩,
    ⟨0xFFFFFFFF#32, 0x00000034#32, fun _ => .hash⟩ ]

/-- Does the word match the row (R95)? -/
def OpcodeRow.accepts (r : OpcodeRow) (w : Word) : Bool := (w &&& r.mask) == r.pattern

/-- Why a word is illegal (R96). The engine answers ILLEGAL for each. -/
inductive DecodeError where
  /-- OP is 0x00, 0x06-0x0F, 0x13-0x1F, 0x22-0x2F or 0x35-0xFF. -/
  | unassignedOpcode
  /-- OP is assigned and RSV is not zero. -/
  | reservedFieldNonzero
  /-- OP is assigned and IMM8 or IDX, which the opcode does not use, is not zero. -/
  | unusedFieldNonzero
  deriving DecidableEq, Repr

/-- The name of an illegal word's fault (R96). -/
def whyIllegal (w : Word) : DecodeError :=
  if opcodeTable.all (fun r => opField w != opField r.pattern) then .unassignedOpcode
  else if rsvField w != 0#8 then .reservedFieldNonzero
  else .unusedFieldNonzero

/-- Decoding (R95): the row that matches, or the word is illegal (R96). -/
def decode (w : Word) : Except DecodeError Instr :=
  match opcodeTable.find? (fun r => r.accepts w) with
  | some r => .ok (r.instr w)
  | none => .error (whyIllegal w)

/-- The opcode byte of a command (R94). -/
def Instr.opcode : Instr → Byte
  | .permute => 0x01#8
  | .stateZero => 0x02#8
  | .stateLoad => 0x03#8
  | .stateStore => 0x04#8
  | .stateXorByte _ _ => 0x05#8
  | .duplexAbsorb => 0x10#8
  | .duplexAbsorbPad _ => 0x11#8
  | .duplexSqueeze => 0x12#8
  | .aeadEncrypt => 0x20#8
  | .aeadDecrypt => 0x21#8
  | .hashInit => 0x30#8
  | .hashUpdate => 0x31#8
  | .hashFinalize => 0x32#8
  | .hashFinalizeXof => 0x33#8
  | .hash => 0x34#8

/-- The IMM8 byte of a command; 0 where the opcode does not use it (R91). -/
def Instr.imm8 : Instr → Byte
  | .stateXorByte _ v => v
  | .duplexAbsorbPad d => d
  | .permute | .stateZero | .stateLoad | .stateStore | .duplexAbsorb | .duplexSqueeze | .aeadEncrypt | .aeadDecrypt
  | .hashInit | .hashUpdate | .hashFinalize | .hashFinalizeXof | .hash => 0#8

/-- The IDX byte of a command; 0 where the opcode does not use it (R91). -/
def Instr.idx : Instr → Byte
  | .stateXorByte i _ => i
  | .permute | .stateZero | .stateLoad | .stateStore | .duplexAbsorb | .duplexAbsorbPad _ | .duplexSqueeze
  | .aeadEncrypt | .aeadDecrypt | .hashInit | .hashUpdate | .hashFinalize | .hashFinalizeXof | .hash => 0#8

/-- Encoding (R90, R99): "the row's match value with the IMM8 and IDX operands inserted",
`op | (imm8 << 8) | (idx << 16)`. -/
def encode (i : Instr) : Word :=
  i.opcode.setWidth 32 ||| (i.imm8.setWidth 32 <<< 8) ||| (i.idx.setWidth 32 <<< 16)

/-- The command the decoder reads from a word given as the number `w` of `nbits` bits, bit 0 least significant: the
table's own numbering (R8, R94). Bits above `nbits` are zero. -/
def decodeTableWord (nbits w : Nat) : Option Instr :=
  match decode (BitVec.ofNat 32 (w % 2 ^ nbits)) with
  | .ok i => some i
  | .error _ => none

end Sys2Proof
end

