-- ==== Sys2Proof/Machine/Bus.lean ====
section
/-! DEFINITION. What the host sends and gets back (30_encoding.md R98; 70_reset_and_hazards.md R314), and the order of
the two agents. -/

namespace Sys2Proof.Machine

/-- One operation of a host program (R98), and the reset input, which "may be asserted at any host step" (R300).
A register access carries its width in bits, and any offset, so that the accesses the spec refuses (R63, R64) can be
written down; R98's `W off, v` is `regWrite off 32 v` and `R off` is `regRead off 32`. -/
inductive HostOp where
  /-- `W off, v`: register write. -/
  | regWrite (off width : Nat) (v : Word)
  /-- `R off`: register read; its value is the host's `@`. -/
  | regRead (off width : Nat)
  /-- `DW a, hh hh …`: DMEM byte writes at a, a+1, …. -/
  | memWrite (addr : Nat) (bytes : List Byte)
  /-- `DR a, n`: DMEM read of n bytes at a. -/
  | memRead (addr len : Nat)
  /-- `POLL`: repeat reading STATUS until BUSY = 0. -/
  | poll
  /-- Assertion of `rst` for one host step (R300). -/
  | assertReset
  /-- An access by a second host: "the model has exactly one host agent" (R280). -/
  | secondHost
  deriving DecidableEq, Repr

/-- What a host read returns (R314, "what it gets back"). -/
inductive Reply where
  /-- A register's value. -/
  | word (v : Word)
  /-- The bytes of a DMEM read, in increasing address order (R67). -/
  | bytes (bs : List Byte)
  deriving DecidableEq, Repr

/-- Which agent takes a contested step (95_test_vectors.md P6; log 2). -/
inductive Turn where
  | host
  | engine
  deriving DecidableEq, Repr

/-- A register of the REG window (20_memory.md R62). -/
inductive RegName where
  | cmd
  | status
  | ctrl
  /-- Offsets 0x0C..0x1C: read 0, writes ignored (R64). -/
  | reserved
  /-- Ai at 0x20 + 4·i. -/
  | operand (i : Fin 8)
  deriving DecidableEq, Repr

end Sys2Proof.Machine
end

