-- ==== Sys2Proof/Machine/State.lean ====
section
/-! DEFINITION. The state of the GIMLI core (10_state.md, 20_memory.md), the reasons a step can stop, and the machine
right after reset (70_reset_and_hazards.md R300). -/

namespace Sys2Proof.Machine

/-- The Gimli state S as its 12 words (R30); the byte view aliases the same storage (`byteAt` of Ops.lean). -/
abbrev Gimli := Vector Word 12

/-- CTX (R35): who owns S for the hash mode. The value 3 never occurs. -/
inductive Ctx where
  /-- 0: no hash in progress. -/
  | none
  /-- 1: a hash has been started and not finalized. -/
  | hash
  /-- 2: a hash has been finalized. -/
  | hashFinal
  deriving DecidableEq, Repr

/-- The outcome of a command (R260, R261). The codes 7..15 are never written. -/
inductive ErrCode where
  | ok
  | illegal
  | operand
  | sequence
  | range
  | overlap
  | authFail
  deriving DecidableEq, Repr

/-- The copy of the command word and of A0..A7 that acceptance takes (R46, R271). -/
structure Latch where
  word : Word
  a : Vector Word 8
  deriving DecidableEq, Repr

/-- S and POS together: what the duplex helpers of 41_duplex.md work on. -/
structure Sponge where
  gimli : Gimli
  pos : BitVec 5
  deriving DecidableEq, Repr

/-- The machine: the core's registers and memory, the command in flight, and the host's side of the interface. -/
structure State where
  /-- DMEM_SIZE, PAD_TERM, TAG_BASE (R6, R7); no step writes them. -/
  params : Params
  /-- S (R30-R33). -/
  gimli : Gimli
  /-- POS (R34). -/
  pos : BitVec 5
  /-- CTX (R35). -/
  ctx : Ctx
  /-- A0..A7 (R36). -/
  a : Vector Word 8
  /-- CMD: the last command word accepted (R37). -/
  cmd : Word
  /-- The latched command (R46); STATUS.BUSY is 1 exactly while there is one (R39). -/
  latch : Option Latch
  /-- STATUS.DONE (R40). -/
  done : Bool
  /-- STATUS.OVR (R41). -/
  ovr : Bool
  /-- STATUS.ERRCODE (R42). -/
  errcode : ErrCode
  /-- CTRL.IE (R45). -/
  ie : Bool
  /-- DMEM (R66, R86): the bytes written since power-up, addresses rising. -/
  dmem : List Host.Cell
  /-- The model's own: how many bytes have been drawn for aborted commands (R301, log 8). -/
  draws : Nat
  /-- The model's own: the host operations still to run (R98, R100, log 1). -/
  program : List HostOp
  /-- The model's own: who moves at each contested step to come (log 2). -/
  turns : List Turn
  /-- The model's own: what the host's reads returned, oldest first (R314, log 13). -/
  replies : List Reply
  deriving DecidableEq, Repr

/-- Why the machine stops with a fault: never. "There is no fourth outcome: no command hangs, loops or is partly done
at completion" (R260), so the type has no constructor, and no step faults. -/
inductive Fault where
  deriving DecidableEq, Repr

/-- Why a run is refused: the HOST's accesses that the spec puts outside the interface. No command is refused. -/
inductive Refusal where
  /-- An instruction that has no meaning yet (raised by an arm of Dispatch.lean, by none now). Safe. -/
  | notModelled (mnemonic : String)
  /-- A register access of a width other than 32 bits (R63). Raised by a host register access. Safe. -/
  | registerWidth
  /-- A register access at an offset not a multiple of 4 (R63). Raised by a host register access. Safe. -/
  | registerMisaligned
  /-- A register access at an offset of 0x40 or above (R64). Raised by a host register access. Safe. -/
  | registerOutsideWindow
  /-- A host DMEM access to an address at or above DMEM_SIZE (R67). Raised by a host DMEM access. Safe. -/
  | dmemOutsideMemory
  /-- A host DMEM access while BUSY = 1 (R305). Raised by a host DMEM access. Safe. -/
  | dmemWhileBusy
  /-- Two hosts on one core (R280, R314). Raised by an access of a second host. Safe. -/
  | secondHost
  deriving DecidableEq, Repr

/-- The machine right after power-up and reset (R300): every register 0, no command pending, DMEM not reset (nothing
recorded, so every byte is its draw, R86). The parameters and the model's own fields are DESIGN CHOICE (log 1, 2, 4,
5, 8, 13). -/
def State.reset : State where
  params := Params.literals
  gimli := Vector.replicate 12 0#32
  pos := 0#5
  ctx := .none
  a := Vector.replicate 8 0#32
  cmd := 0#32
  latch := none
  done := false
  ovr := false
  errcode := .ok
  ie := false
  dmem := []
  draws := 0
  program := []
  turns := []
  replies := []

end Sys2Proof.Machine
end

