-- ==== Sys2Proof/Machine/Ops.lean ====
section
/-! DEFINITION. The named operations over S, DMEM and the registers: the views of the Gimli state (R30-R32), DMEM bytes
(R66, R86), and ending a command (R263, R270), which is this hardware's analogue of taking an exception (R275; there is
nothing to return from, R276). -/

namespace Sys2Proof.Machine

/-! ### The views of S -/

/-- The state of 48 zero bytes, the source's `zero()` (R140). -/
def zeroGimli : Gimli := Vector.replicate 12 0#32

/-- S.w[j], j in 0..11 (R30). -/
def wordAt (g : Gimli) (j : Nat) : Word := g[j]?.getD 0#32

/-- S.w[j] <- v, j in 0..11 (R30). -/
def setWordAt (g : Gimli) (j : Nat) (v : Word) : Gimli := g.setIfInBounds j v

/-- S.m(y, x) = S.w[4·y + x] (R32). -/
def matrixAt (g : Gimli) (y x : Nat) : Word := wordAt g (4 * y + x)

/-- Byte k, k in 0..3, of a word, the least significant first (R30). -/
def byteOfWord (w : Word) (k : Nat) : Byte := w.extractLsb' (8 * k) 8

/-- The word with its byte k, k in 0..3, replaced (R30). -/
def insertByte (w : Word) (k : Nat) (v : Byte) : Word :=
  (w &&& ~~~(0xFF#32 <<< (8 * k))) ||| (v.setWidth 32 <<< (8 * k))

/-- The word whose bytes are b0, b1, b2, b3, the least significant first (R30):
`b0 | (b1 << 8) | (b2 << 16) | (b3 << 24)`. -/
def wordOfBytes (b0 b1 b2 b3 : Byte) : Word :=
  b0.setWidth 32 ||| (b1.setWidth 32 <<< 8) ||| (b2.setWidth 32 <<< 16) ||| (b3.setWidth 32 <<< 24)

/-- S.b[i], i in 0..47: bits [8·(i mod 4)+7 : 8·(i mod 4)] of S.w[i div 4] (R30). -/
def byteAt (g : Gimli) (i : Nat) : Byte := byteOfWord (wordAt g (i / 4)) (i % 4)

/-- S.b[i] <- v, i in 0..47 (R30). -/
def setByteAt (g : Gimli) (i : Nat) (v : Byte) : Gimli := setWordAt g (i / 4) (insertByte (wordAt g (i / 4)) (i % 4) v)

/-- S.b[i] <- S.b[i] ^ v (R143, R172, R173). -/
def xorByteAt (g : Gimli) (i : Nat) (v : Byte) : Gimli := setByteAt g i (byteAt g i ^^^ v)

/-- The word whose four bytes stand at `j·4` of a byte string. -/
def wordFromBytes (bs : List Byte) (j : Nat) : Word :=
  wordOfBytes (bs.getD (4 * j) 0#8) (bs.getD (4 * j + 1) 0#8) (bs.getD (4 * j + 2) 0#8) (bs.getD (4 * j + 3) 0#8)

/-- The state whose byte S.b[i] is byte i of a string of 48 bytes (R69: byte for byte). -/
def gimliOfBytes (bs : List Byte) : Gimli :=
  #v[wordFromBytes bs 0, wordFromBytes bs 1, wordFromBytes bs 2, wordFromBytes bs 3, wordFromBytes bs 4,
    wordFromBytes bs 5, wordFromBytes bs 6, wordFromBytes bs 7, wordFromBytes bs 8, wordFromBytes bs 9,
    wordFromBytes bs 10, wordFromBytes bs 11]

/-- The state bytes S.b[first], S.b[first+1], …, `n` of them (R69). -/
def gimliBytes (g : Gimli) (first n : Nat) : List Byte := (List.range n).map fun i => byteAt g (first + i)

/-! ### DMEM -/

/-- The byte recorded at an address, if one has been written since power-up. -/
def Memory.lookup : List Host.Cell → Nat → Option Byte
  | [], _ => none
  | (k, v) :: m, a => if k = a then some v else Memory.lookup m a

/-- The byte DMEM holds at an address: what was written last, or the draw of a byte nothing has written (R86, R87). -/
def Memory.read (m : List Host.Cell) (a : Nat) : Byte := (Memory.lookup m a).getD (Config.powerUpByte a)

/-- One byte write, keeping the addresses strictly rising (R10). -/
def Memory.write : List Host.Cell → Nat → Byte → List Host.Cell
  | [], a, v => [(a, v)]
  | (k, w) :: m, a, v =>
    if a < k then (a, v) :: (k, w) :: m
    else if a = k then (a, v) :: m
    else (k, w) :: Memory.write m a v

/-- MemWrite: the bytes of a string to addr, addr+1, …, one at a time in increasing order (R10, R67). -/
def Memory.writeBytes : List Host.Cell → Nat → List Byte → List Host.Cell
  | m, _, [] => m
  | m, a, b :: bs => Memory.writeBytes (Memory.write m a b) (a + 1) bs

/-- MemRead: the `n` bytes at addr, addr+1, … (R10, R67). -/
def Memory.readBytes (m : List Host.Cell) : Nat → Nat → List Byte
  | _, 0 => []
  | a, n + 1 => Memory.read m a :: Memory.readBytes m (a + 1) n

/-- The canonical form of a memory (log 7): addresses strictly rising. An unlisted address has no recorded value, so no
entry can equal what one reads as. -/
abbrev Memory.wf (m : List Host.Cell) : Prop := (m.map Prod.fst).Pairwise (· < ·)

/-- Every recorded byte lies in DMEM, at 0..size-1 (R66). -/
abbrev Memory.inside (size : Nat) (m : List Host.Cell) : Prop := ∀ c ∈ m, c.1 < size

/-- The number a byte string stands for, the first byte least significant (R67). -/
def leValue : List Byte → Nat
  | [] => 0
  | b :: bs => b.toNat + 256 * leValue bs

/-- The `n` bytes of a number, least significant first (R67). -/
def leBytes : Nat → Nat → List Byte
  | 0, _ => []
  | n + 1, v => BitVec.ofNat 8 v :: leBytes n (v / 256)

/-! ### Updates of the state a command makes -/

/-- S and POS as the helpers of 41_duplex.md take them. -/
def State.sponge (s : State) : Sponge := { gimli := s.gimli, pos := s.pos }

/-- S and POS from a helper's result. -/
def State.setSponge (s : State) (d : Sponge) : State := { s with gimli := d.gimli, pos := d.pos }

/-- S <- g. -/
def State.setGimli (s : State) (g : Gimli) : State := { s with gimli := g }

/-- CTX <- c. -/
def State.setCtx (s : State) (c : Ctx) : State := { s with ctx := c }

/-- MemWrite of a byte string at an address (R10). -/
def State.writeBytes (s : State) (a : Nat) (bs : List Byte) : State :=
  { s with dmem := Memory.writeBytes s.dmem a bs }

/-- MemRead of n bytes at an address (R10). -/
def State.readBytes (s : State) (a n : Nat) : List Byte := Memory.readBytes s.dmem a n

/-! ### Acceptance and completion -/

/-- Acceptance (R271): `CMD <- v; latch (v, A0..A7); BUSY <- 1; DONE <- 0`. BUSY is 1 because the latch holds a
command (R39). -/
def State.accept (s : State) (v : Word) : State :=
  { s with cmd := v, latch := some { word := v, a := s.a }, done := false }

/-- Completion (R270), the one way a command ends, with any outcome: `ERRCODE <- code; BUSY <- 0; DONE <- 1`. A
rejection is this and nothing else (R263). -/
def State.complete (s : State) (e : ErrCode) : State := { s with latch := none, done := true, errcode := e }

end Sys2Proof.Machine
end

