-- ==== Sys2Proof/Machine/Flags.lean ====
section
/-! DEFINITION. STATUS, CTRL and the interrupt line (10_state.md R38-R45, 60_exceptions.md R273, R274). There are no
arithmetic flags (R49). -/

namespace Sys2Proof.Machine

/-- The 2-bit value of CTX (R35). -/
def Ctx.code : Ctx → BitVec 2
  | .none => 0#2
  | .hash => 1#2
  | .hashFinal => 2#2

/-- The 4-bit ERRCODE value of an outcome (R261). -/
def ErrCode.code : ErrCode → BitVec 4
  | .ok => 0#4
  | .illegal => 1#4
  | .operand => 2#4
  | .sequence => 3#4
  | .range => 4#4
  | .overlap => 5#4
  | .authFail => 6#4

/-- STATUS.BUSY: 1 exactly while a command is accepted and not yet completed (R39). -/
def State.busy (s : State) : Bool := s.latch.isSome

/-- The STATUS register as a host read sees it (R38): POS in bits 20:16, CTX in 9:8, ERRCODE in 7:4, OVR in 2, DONE in
1, BUSY in 0, and every other bit 0. -/
def statusWord (s : State) : Word :=
  (s.pos.setWidth 32 <<< 16) ||| (s.ctx.code.setWidth 32 <<< 8) ||| (s.errcode.code.setWidth 32 <<< 4) |||
    ((BitVec.ofBool s.ovr).setWidth 32 <<< 2) ||| ((BitVec.ofBool s.done).setWidth 32 <<< 1) |||
    (BitVec.ofBool s.busy).setWidth 32

/-- The CTRL register as a host read sees it (R45): bit 0 is IE, the rest read 0. -/
def ctrlWord (s : State) : Word := (BitVec.ofBool s.ie).setWidth 32

/-- The interrupt line (R274): `irq = CTRL.IE & STATUS.DONE`. -/
def State.irq (s : State) : Bool := s.ie && s.done

/-- A host write to STATUS (R38, R273): bit 1 clears DONE, bit 2 clears OVR, every other bit is ignored. -/
def State.clearStatus (s : State) (v : Word) : State :=
  { s with done := s.done && !v.getLsbD 1, ovr := s.ovr && !v.getLsbD 2 }

/-- A host write to CTRL (R45): bit 0 sets IE, the rest is ignored. -/
def State.setCtrl (s : State) (v : Word) : State := { s with ie := v.getLsbD 0 }

end Sys2Proof.Machine
end

