-- ==== Sys2Proof/Machine/Operands.lean ====
section
/-! DEFINITION. Operands and regions of each command (30_encoding.md R93, 20_memory.md R72-R74), the checks in their
fixed order (60_exceptions.md R262-R268), and running a command under them (R260). -/

namespace Sys2Proof.Machine

/-- Ai of the latched copy, as the unsigned number it is (R36, R46, R92). DESIGN CHOICE (safe, log 10): with no command
pending, which no step of the engine meets, the register itself. -/
def State.operand (s : State) (i : Fin 8) : Nat :=
  match s.latch with
  | some l => (l.a.get i).toNat
  | none => (s.a.get i).toNat

/-- What a command does to a region (R93). -/
inductive Access where
  | r
  | w
  | rw
  deriving DecidableEq, Repr

/-- Does the command write the region? -/
def Access.writes : Access → Bool
  | .r => false
  | .w => true
  | .rw => true

/-- A region (addr, len) with its access (R72, R93), in unbounded naturals. -/
structure Region where
  addr : Nat
  len : Nat
  access : Access
  deriving DecidableEq, Repr

/-- The regions of each command, in operand order (R93). -/
def regions (i : Instr) (s : State) : List Region :=
  match i with
  | .permute | .stateZero | .stateXorByte _ _ | .duplexAbsorbPad _ | .hashInit => []
  | .stateLoad => [⟨s.operand 0, Config.stateSize, .r⟩]
  | .stateStore => [⟨s.operand 0, Config.stateSize, .w⟩]
  | .duplexAbsorb => [⟨s.operand 0, s.operand 1, .r⟩]
  | .duplexSqueeze => [⟨s.operand 0, s.operand 1, .w⟩]
  | .aeadEncrypt =>
    [⟨s.operand 0, Config.keySize, .r⟩, ⟨s.operand 1, Config.nonceSize, .r⟩, ⟨s.operand 2, s.operand 3, .r⟩,
      ⟨s.operand 4, s.operand 5, .rw⟩, ⟨s.operand 6, Config.tagSize, .w⟩]
  | .aeadDecrypt =>
    [⟨s.operand 0, Config.keySize, .r⟩, ⟨s.operand 1, Config.nonceSize, .r⟩, ⟨s.operand 2, s.operand 3, .r⟩,
      ⟨s.operand 4, s.operand 5, .rw⟩, ⟨s.operand 6, Config.tagSize, .r⟩]
  | .hashUpdate => [⟨s.operand 0, s.operand 1, .r⟩]
  | .hashFinalize => [⟨s.operand 0, Config.digestSize, .w⟩]
  | .hashFinalizeXof => [⟨s.operand 0, s.operand 1, .w⟩]
  | .hash => [⟨s.operand 0, s.operand 1, .r⟩, ⟨s.operand 2, Config.digestSize, .w⟩]

/-- In range: `len = 0`, or `addr + len ≤ DMEM_SIZE` without wrap-around (R72, R73). -/
def Region.inRange (size : Nat) (g : Region) : Bool := g.len == 0 || g.addr + g.len ≤ size

/-- Overlap of two regions (R74): both nonempty, and each starts before the other ends. -/
def Region.overlaps (g h : Region) : Bool :=
  0 < g.len && 0 < h.len && g.addr < h.addr + h.len && h.addr < g.addr + g.len

/-- A forbidden pair (R268): the regions overlap and at least one is written by the command. -/
def Region.conflicts (g h : Region) : Bool := (g.access.writes || h.access.writes) && g.overlaps h

/-- Some two regions of the command are a forbidden pair (R268). -/
def anyConflict : List Region → Bool
  | [] => false
  | g :: gs => gs.any g.conflicts || anyConflict gs

/-- OPERAND (R265): STATE_XOR_BYTE with IDX ≥ 48. -/
def operandBad : Instr → Bool
  | .stateXorByte idx _ => Config.stateSize ≤ idx.toNat
  | .permute | .stateZero | .stateLoad | .stateStore | .duplexAbsorb | .duplexAbsorbPad _ | .duplexSqueeze
  | .aeadEncrypt | .aeadDecrypt | .hashInit | .hashUpdate | .hashFinalize | .hashFinalizeXof | .hash => false

/-- SEQUENCE (R266): HASH_UPDATE, HASH_FINALIZE, HASH_FINALIZE_XOF with CTX ≠ HASH. -/
def sequenceBad (i : Instr) (c : Ctx) : Bool :=
  match i with
  | .hashUpdate | .hashFinalize | .hashFinalizeXof => c != .hash
  | .permute | .stateZero | .stateLoad | .stateStore | .stateXorByte _ _ | .duplexAbsorb | .duplexAbsorbPad _
  | .duplexSqueeze | .aeadEncrypt | .aeadDecrypt | .hashInit | .hash => false

/-- The checks after decoding, in their fixed order; the first that fails decides the code (R262). ILLEGAL, the first
of all, is decided by `decode`. -/
def firstError (i : Instr) (s : State) : Option ErrCode :=
  if operandBad i then some .operand
  else if sequenceBad i s.ctx then some .sequence
  else if !(regions i s).all (Region.inRange s.params.dmemSize) then some .range
  else if anyConflict (regions i s) then some .overlap
  else none

/-- Run a decoded command (R260): if a check fails it is rejected, and only its completion happens (R263); otherwise
its body runs and it completes with the body's outcome (R270). -/
def State.attempt (s : State) (i : Instr) (body : State → State × ErrCode) : State :=
  match firstError i s with
  | some e => s.complete e
  | none => (body s).1.complete (body s).2

/-- The addresses a command would write if it ran from here: none when it would be rejected (R68, R263), else its
written regions' bytes, in operand order. -/
def writtenAddresses (i : Instr) (s : State) : List Nat :=
  match firstError i s with
  | some _ => []
  | none => ((regions i s).filter fun g => g.access.writes).flatMap fun g => (List.range g.len).map (g.addr + ·)

end Sys2Proof.Machine
end

