-- ==== Sys2Proof/Machine/Permutation.lean ====
section
/-! DEFINITION. The Gimli permutation P (40_permutation.md R130-R138). -/

namespace Sys2Proof.Machine

/-- `rotl(v, k) = (v << k) | (v >> (32 - k))` for 0 < k < 32 (R9). -/
def rotl (v : Word) (k : Nat) : Word := (v <<< k) ||| (v >>> (32 - k))

/-- The SP-box of column x (R131): the three results are assigned at once from the old values. -/
def spBox (g : Gimli) (x : Nat) : Gimli :=
  let a := rotl (matrixAt g 0 x) 24
  let b := rotl (matrixAt g 1 x) 9
  let c := matrixAt g 2 x
  setWordAt
    (setWordAt
      (setWordAt g (4 * 2 + x) (a ^^^ (c <<< 1) ^^^ ((b &&& c) <<< 2)))
      (4 * 1 + x) (b ^^^ a ^^^ ((a ||| c) <<< 1)))
    x (c ^^^ b ^^^ ((a &&& b) <<< 3))

/-- The SP layer: the SP-box on columns 0, 1, 2, 3 (R130, R132). -/
def spLayer (g : Gimli) : Gimli := spBox (spBox (spBox (spBox g 0) 1) 2) 3

/-- Exchange S.w[i] and S.w[j]. -/
def swapWords (g : Gimli) (i j : Nat) : Gimli := setWordAt (setWordAt g i (wordAt g j)) j (wordAt g i)

/-- The small swap (R134). -/
def smallSwap (g : Gimli) : Gimli := swapWords (swapWords g 0 1) 2 3

/-- The big swap (R135). -/
def bigSwap (g : Gimli) : Gimli := swapWords (swapWords g 0 2) 1 3

/-- The round constant `0x9E377900 | r` (R136). -/
def roundConstant (r : Nat) : Word := Config.rcBase ||| BitVec.ofNat 32 r

/-- The linear layer of round r, keyed by r mod 4 (R133): the constant is XORed after the small swap. -/
def linearLayer (g : Gimli) (r : Nat) : Gimli :=
  if r % 4 = 0 then setWordAt (smallSwap g) 0 (wordAt (smallSwap g) 0 ^^^ roundConstant r)
  else if r % 4 = 2 then bigSwap g
  else g

/-- One round: the SP layer, then the linear layer of the round (R130). -/
def gimliRound (g : Gimli) (r : Nat) : Gimli := linearLayer (spLayer g) r

/-- Rounds r, r-1, …, 1, in this order (R130: descending). -/
def gimliRounds : Nat → Gimli → Gimli
  | 0, g => g
  | r + 1, g => gimliRounds r (gimliRound g (r + 1))

/-- P: 24 rounds numbered from 24 down to 1 (R130). Unfold it by name only: 24 rounds are too long for a unifier. -/
@[irreducible] def permute (g : Gimli) : Gimli := gimliRounds Config.rounds g

end Sys2Proof.Machine
end

