-- ==== Sys2Proof/Machine/Duplex.lean ====
section
/-! DEFINITION. The duplex helpers on S and POS (41_duplex.md R170-R174) and the three duplex commands
(R175-R177). -/

namespace Sys2Proof.Machine

/-- ensure_room, the lazy permutation (R171). -/
def ensureRoom (d : Sponge) : Sponge :=
  if d.pos = 16#5 then { gimli := permute d.gimli, pos := 0#5 } else d

/-- POS <- POS + 1 after a rate byte has been used, and, if the block is full, S <- P(S); POS <- 0: the eager step that
ends absorb_byte and the AEAD message loops (R172, R203, R204). -/
def advanceEager (g : Gimli) (pos : BitVec 5) : Sponge :=
  if pos + 1#5 = 16#5 then { gimli := permute g, pos := 0#5 } else { gimli := g, pos := pos + 1#5 }

/-- absorb_byte(v) (R172). -/
def absorbByte (d : Sponge) (v : Byte) : Sponge :=
  let e := ensureRoom d
  advanceEager (xorByteAt e.gimli e.pos.toNat v) e.pos

/-- absorb_byte on each byte of a string, the first one first. -/
def absorb (d : Sponge) (bs : List Byte) : Sponge := bs.foldl absorbByte d

/-- absorb_pad(dom) with the terminator PAD_TERM (R173, R6). -/
def absorbPad (padTerm : Byte) (d : Sponge) (dom : Byte) : Sponge :=
  let e := ensureRoom d
  { gimli := permute (xorByteAt (xorByteAt e.gimli e.pos.toNat dom) Config.padTermIndex padTerm), pos := 0#5 }

/-- squeeze_byte() (R174): the byte, and S and POS after it. -/
def squeezeByte (d : Sponge) : Byte × Sponge :=
  let e := ensureRoom d
  (byteAt e.gimli e.pos.toNat, { gimli := e.gimli, pos := e.pos + 1#5 })

/-- `n` squeeze_byte steps: the bytes in order, and S and POS after them. -/
def squeeze : Nat → Sponge → List Byte × Sponge
  | 0, d => ([], d)
  | n + 1, d =>
    let one := squeezeByte d
    let more := squeeze n one.2
    (one.1 :: more.1, more.2)

/-- Absorb the bytes of a DMEM region (R175, R231, R234). -/
def State.absorbRegion (s : State) (addr len : Nat) : State :=
  s.setSponge (absorb s.sponge (s.readBytes addr len))

/-- absorb_pad on S and POS, with this machine's PAD_TERM (R173, R176). -/
def State.pad (s : State) (dom : Byte) : State := s.setSponge (absorbPad s.params.padTerm s.sponge dom)

/-- Squeeze into a DMEM region (R177, R232-R234). -/
def State.squeezeRegion (s : State) (addr len : Nat) : State :=
  (s.setSponge (squeeze len s.sponge).2).writeBytes addr (squeeze len s.sponge).1

/-- DUPLEX_ABSORB (R175). -/
def execDuplexAbsorb (s : State) : Host.Outcome State Fault Refusal :=
  .next (s.attempt .duplexAbsorb fun s => ((s.absorbRegion (s.operand 0) (s.operand 1)).setCtx .none, .ok))

/-- DUPLEX_ABSORB_PAD (R176). -/
def execDuplexAbsorbPad (imm8 : Byte) (s : State) : Host.Outcome State Fault Refusal :=
  .next (s.attempt (.duplexAbsorbPad imm8) fun s => ((s.pad imm8).setCtx .none, .ok))

/-- DUPLEX_SQUEEZE (R177). -/
def execDuplexSqueeze (s : State) : Host.Outcome State Fault Refusal :=
  .next (s.attempt .duplexSqueeze fun s => ((s.squeezeRegion (s.operand 0) (s.operand 1)).setCtx .none, .ok))

end Sys2Proof.Machine
end

