-- ==== Sys2Proof/Machine/Aead.lean ====
section
/-! DEFINITION. The AEAD steps and commands (42_aead.md R200-R210). The phases fresh, aad, message, finalized (R210)
are the order in which a command composes the steps. -/

namespace Sys2Proof.Machine

/-- aead_init (R201): state bytes 0..15 are the nonce, 16..47 the key; permute; POS <- 0. -/
def aeadInit (key nonce : List Byte) : Sponge := { gimli := permute (gimliOfBytes (nonce ++ key)), pos := 0#5 }

/-- aead_aad (R202): absorb the AAD, then the pad with domain 0x01. -/
def aeadAad (padTerm : Byte) (d : Sponge) (aad : List Byte) : Sponge :=
  absorbPad padTerm (absorb d aad) Config.domain

/-- One byte of aead_enc_msg (R203): the rate byte becomes the ciphertext byte. -/
def encryptByte (d : Sponge) (p : Byte) : Byte × Sponge :=
  let g := xorByteAt d.gimli d.pos.toNat p
  (byteAt g d.pos.toNat, advanceEager g d.pos)

/-- The loop of aead_enc_msg (R203): the ciphertext, and S and POS after it. -/
def encryptBytes : Sponge → List Byte → List Byte × Sponge
  | d, [] => ([], d)
  | d, p :: ps =>
    let one := encryptByte d p
    let more := encryptBytes one.2 ps
    (one.1 :: more.1, more.2)

/-- One byte of aead_dec_msg (R204): "then rate ← ciphertext (not plaintext)". -/
def decryptByte (d : Sponge) (c : Byte) : Byte × Sponge :=
  (byteAt d.gimli d.pos.toNat ^^^ c, advanceEager (setByteAt d.gimli d.pos.toNat c) d.pos)

/-- The loop of aead_dec_msg (R204): the plaintext, and S and POS after it. -/
def decryptBytes : Sponge → List Byte → List Byte × Sponge
  | d, [] => ([], d)
  | d, c :: cs =>
    let one := decryptByte d c
    let more := decryptBytes one.2 cs
    (one.1 :: more.1, more.2)

/-- The tag (R205): T = S.b[TAG_BASE .. TAG_BASE+15]. -/
def tagOf (tagBase : Fin 33) (g : Gimli) : List Byte := gimliBytes g tagBase.val Config.tagSize

/-- Tag comparison (R206): OR-accumulate the XOR over every byte, then test for zero. -/
def tagEqual (t u : List Byte) : Bool := (List.zipWith (· ^^^ ·) t u).foldl (· ||| ·) 0#8 == 0#8

/-- scrub() (R209): S <- 0; POS <- 0; CTX <- NONE. -/
def State.scrub (s : State) : State := (s.setSponge { gimli := zeroGimli, pos := 0#5 }).setCtx .none

/-- S and POS after aead_init and aead_aad, from the operands of R200. -/
def State.aeadKeyed (s : State) : Sponge :=
  aeadAad s.params.padTerm
    (aeadInit (s.readBytes (s.operand 0) Config.keySize) (s.readBytes (s.operand 1) Config.nonceSize))
    (s.readBytes (s.operand 2) (s.operand 3))

/-- The AEAD buffer's bytes (R200: A5 bytes at A4). -/
def State.aeadBuffer (s : State) : List Byte := s.readBytes (s.operand 4) (s.operand 5)

/-- The message phase of R203 on the buffer: the ciphertext, and S and POS after the final pad. -/
def State.aeadEncrypted (s : State) : List Byte × Sponge :=
  let r := encryptBytes s.aeadKeyed s.aeadBuffer
  (r.1, absorbPad s.params.padTerm r.2 Config.domain)

/-- The message phase of R204 on the buffer: the candidate plaintext, and S and POS after the final pad. -/
def State.aeadDecrypted (s : State) : List Byte × Sponge :=
  let r := decryptBytes s.aeadKeyed s.aeadBuffer
  (r.1, absorbPad s.params.padTerm r.2 Config.domain)

/-- AEAD_ENCRYPT (R207): the buffer becomes the ciphertext, then the tag is written, then the scrub. -/
def execAeadEncrypt (s : State) : Host.Outcome State Fault Refusal :=
  .next (s.attempt .aeadEncrypt fun s =>
    let r := s.aeadEncrypted
    (((s.writeBytes (s.operand 4) r.1).writeBytes (s.operand 6) (tagOf s.params.tagBase r.2.gimli)).scrub, .ok))

/-- AEAD_DECRYPT (R208): the buffer becomes the candidate plaintext; if the tag does not verify, the buffer is zeroed
and the outcome is AUTH_FAIL (R269); the scrub either way. -/
def execAeadDecrypt (s : State) : Host.Outcome State Fault Refusal :=
  .next (s.attempt .aeadDecrypt fun s =>
    let r := s.aeadDecrypted
    let t := s.writeBytes (s.operand 4) r.1
    if tagEqual (tagOf s.params.tagBase r.2.gimli) (t.readBytes (s.operand 6) Config.tagSize) then (t.scrub, .ok)
    else ((t.writeBytes (s.operand 4) (List.replicate (s.operand 5) 0#8)).scrub, .authFail))

end Sys2Proof.Machine
end

