-- ==== Sys2Proof/Machine/Hash.lean ====
section
/-! DEFINITION. The hash commands (43_hash.md R230-R236). -/

namespace Sys2Proof.Machine

/-- absorb_pad(0x01), squeeze `len` bytes into DMEM, CTX <- HASH_FINAL (R232, R233, R234). -/
def State.finishHash (s : State) (addr len : Nat) : State :=
  ((s.pad Config.domain).squeezeRegion addr len).setCtx .hashFinal

/-- HASH_INIT (R230). -/
def execHashInit (s : State) : Host.Outcome State Fault Refusal :=
  .next (s.attempt .hashInit fun s => ((s.setSponge { gimli := zeroGimli, pos := 0#5 }).setCtx .hash, .ok))

/-- HASH_UPDATE (R231): CTX stays HASH. -/
def execHashUpdate (s : State) : Host.Outcome State Fault Refusal :=
  .next (s.attempt .hashUpdate fun s => (s.absorbRegion (s.operand 0) (s.operand 1), .ok))

/-- HASH_FINALIZE (R232). -/
def execHashFinalize (s : State) : Host.Outcome State Fault Refusal :=
  .next (s.attempt .hashFinalize fun s => (s.finishHash (s.operand 0) Config.digestSize, .ok))

/-- HASH_FINALIZE_XOF (R233). -/
def execHashFinalizeXof (s : State) : Host.Outcome State Fault Refusal :=
  .next (s.attempt .hashFinalizeXof fun s => (s.finishHash (s.operand 0) (s.operand 1), .ok))

/-- HASH (R234). -/
def execHash (s : State) : Host.Outcome State Fault Refusal :=
  .next (s.attempt .hash fun s =>
    (((s.setSponge { gimli := zeroGimli, pos := 0#5 }).absorbRegion (s.operand 0) (s.operand 1)).finishHash
      (s.operand 2) Config.digestSize, .ok))

end Sys2Proof.Machine
end

