-- ==== Sys2Proof/Machine/StateCommands.lean ====
section
/-! DEFINITION. The five commands that act on S directly (40_permutation.md R139-R143). -/

namespace Sys2Proof.Machine

/-- PERMUTE (R139): POS is unchanged. -/
def execPermute (s : State) : Host.Outcome State Fault Refusal :=
  .next (s.attempt .permute fun s => ((s.setGimli (permute s.gimli)).setCtx .none, .ok))

/-- STATE_ZERO (R140). -/
def execStateZero (s : State) : Host.Outcome State Fault Refusal :=
  .next (s.attempt .stateZero fun s => ((s.setSponge { gimli := zeroGimli, pos := 0#5 }).setCtx .none, .ok))

/-- STATE_LOAD (R141). -/
def execStateLoad (s : State) : Host.Outcome State Fault Refusal :=
  .next (s.attempt .stateLoad fun s =>
    ((s.setSponge { gimli := gimliOfBytes (s.readBytes (s.operand 0) Config.stateSize), pos := 0#5 }).setCtx .none,
      .ok))

/-- STATE_STORE (R142): S, POS and CTX are unchanged. -/
def execStateStore (s : State) : Host.Outcome State Fault Refusal :=
  .next (s.attempt .stateStore fun s => (s.writeBytes (s.operand 0) (gimliBytes s.gimli 0 Config.stateSize), .ok))

/-- STATE_XOR_BYTE (R143): POS is unchanged. -/
def execStateXorByte (idx imm8 : Byte) (s : State) : Host.Outcome State Fault Refusal :=
  .next (s.attempt (.stateXorByte idx imm8) fun s =>
    ((s.setGimli (xorByteAt s.gimli idx.toNat imm8)).setCtx .none, .ok))

end Sys2Proof.Machine
end

