-- ==== Sys2Proof/Machine/Dispatch.lean ====
section
/-! DEFINITION. One arm per command (30_encoding.md R94). -/

namespace Sys2Proof.Machine

/-- The engine's execution of a decoded command (R260, R271). -/
def exec (i : Instr) (s : State) : Host.Outcome State Fault Refusal :=
  match i with
  | .permute => Sys2Proof.Machine.execPermute s
  | .stateZero => Sys2Proof.Machine.execStateZero s
  | .stateLoad => Sys2Proof.Machine.execStateLoad s
  | .stateStore => Sys2Proof.Machine.execStateStore s
  | .stateXorByte idx imm8 => Sys2Proof.Machine.execStateXorByte idx imm8 s
  | .duplexAbsorb => Sys2Proof.Machine.execDuplexAbsorb s
  | .duplexAbsorbPad imm8 => Sys2Proof.Machine.execDuplexAbsorbPad imm8 s
  | .duplexSqueeze => Sys2Proof.Machine.execDuplexSqueeze s
  | .aeadEncrypt => Sys2Proof.Machine.execAeadEncrypt s
  | .aeadDecrypt => Sys2Proof.Machine.execAeadDecrypt s
  | .hashInit => Sys2Proof.Machine.execHashInit s
  | .hashUpdate => Sys2Proof.Machine.execHashUpdate s
  | .hashFinalize => Sys2Proof.Machine.execHashFinalize s
  | .hashFinalizeXof => Sys2Proof.Machine.execHashFinalizeXof s
  | .hash => Sys2Proof.Machine.execHash s

end Sys2Proof.Machine
end

