-- ==== Sys2Proof/Machine/HostOps.lean ====
section
/-! DEFINITION. The host's operations and what they do to the core (20_memory.md R60-R67, 30_encoding.md R98,
60_exceptions.md R271-R273, 70_reset_and_hazards.md R300-R307, R314), and which agent moves. -/

namespace Sys2Proof.Machine

/-! ### Registers -/

/-- Why a register access is refused (R63, R64): its width, its alignment, or an offset outside the window. -/
def accessRefused (off width : Nat) : Option Refusal :=
  if width ≠ 32 then some .registerWidth
  else if off % 4 ≠ 0 then some .registerMisaligned
  else if 0x40 ≤ off then some .registerOutsideWindow
  else none

/-- The register at an aligned offset of the window (R62): Ai stands at 0x20 + 4·i (R99). -/
def regAt (off : Nat) : RegName :=
  if off = 0x00 then .cmd
  else if off = 0x04 then .status
  else if off = 0x08 then .ctrl
  else if off < 0x20 then .reserved
  else .operand (Fin.ofNat 8 ((off - 0x20) / 4))

/-- The value a register read returns; it has no side effect (R37, R38, R45, R64, R65). -/
def State.readReg (s : State) : RegName → Word
  | .cmd => s.cmd
  | .status => statusWord s
  | .ctrl => ctrlWord s
  | .reserved => 0#32
  | .operand i => s.a.get i

/-- A CMD write: while BUSY = 1 it is discarded and sets OVR (R272), else the command is accepted (R271). -/
def State.writeCmd (s : State) (v : Word) : State := if s.busy then { s with ovr := true } else s.accept v

/-- Ai <- v (R36, R65). -/
def State.writeOperand (s : State) (i : Fin 8) (v : Word) : State := { s with a := s.a.set i v }

/-- The effects of a register write, and no others (R65). -/
def State.writeReg (s : State) (r : RegName) (v : Word) : State :=
  match r with
  | .cmd => s.writeCmd v
  | .status => s.clearStatus v
  | .ctrl => s.setCtrl v
  | .reserved => s
  | .operand i => s.writeOperand i v

/-- A read's result reaches the host (R314). -/
def State.reply (s : State) (r : Reply) : State := { s with replies := s.replies ++ [r] }

/-! ### DMEM -/

/-- Why a host DMEM access of `len` bytes at `addr` is refused (R305, R67). -/
def dmemRefused (s : State) (addr len : Nat) : Option Refusal :=
  if s.busy then some .dmemWhileBusy
  else if 0 < len ∧ s.params.dmemSize < addr + len then some .dmemOutsideMemory
  else none

/-! ### Reset -/

/-- A byte of an aborted command's written regions takes the next draw (R301). -/
def State.drawByte (s : State) (a : Nat) : State :=
  { s with dmem := Memory.write s.dmem a (Config.abortByte s.draws), draws := s.draws + 1 }

/-- The DMEM addresses a pending command may have been writing: none if there is none, or if it would be rejected
(R68, R301; DEDUCED, log 9). -/
def State.abortedAddresses (s : State) : List Nat :=
  match s.latch with
  | none => []
  | some l =>
    match decode l.word with
    | .ok i => writtenAddresses i s
    | .error _ => []

/-- Every register to its reset value, all at once (R300); DMEM and the parameters keep theirs. The host's own side
(its program, its replies) is not the core's to reset (log 16). -/
def State.clearRegisters (s : State) : State :=
  { s with
    gimli := zeroGimli, pos := 0#5, ctx := .none, a := Vector.replicate 8 0#32, cmd := 0#32, latch := none,
    done := false, ovr := false, errcode := .ok, ie := false }

/-- Assertion of `rst` (R300, R301): a pending command is aborted, each byte of its written regions takes a fresh draw,
and every register its reset value. -/
def State.assertReset (s : State) : State := (s.abortedAddresses.foldl State.drawByte s).clearRegisters

/-! ### One host operation -/

/-- A host operation on the core (R98, R314). -/
def hostOp (op : HostOp) (s : State) : Host.Outcome State Fault Refusal :=
  match op with
  | .regWrite off width v =>
    match accessRefused off width with
    | some r => .refused r
    | none => .next (s.writeReg (regAt off) v)
  | .regRead off width =>
    match accessRefused off width with
    | some r => .refused r
    | none => .next (s.reply (.word (s.readReg (regAt off))))
  | .memWrite addr bytes =>
    match dmemRefused s addr bytes.length with
    | some r => .refused r
    | none => .next (s.writeBytes addr bytes)
  | .memRead addr len =>
    match dmemRefused s addr len with
    | some r => .refused r
    | none => .next (s.reply (.bytes (s.readBytes addr len)))
  | .poll =>
    let t := s.reply (.word (s.readReg .status))
    if (s.readReg .status).getLsbD 0 then .next { t with program := .poll :: t.program } else .next t
  | .assertReset => .next s.assertReset
  | .secondHost => .refused .secondHost

/-- The host's next operation in program order (R78, R100); with no operation left nothing happens. -/
def hostStep (s : State) : Host.Outcome State Fault Refusal :=
  match s.program with
  | [] => .next s
  | op :: rest => hostOp op { s with program := rest }

/-- A DMEM write of an `n`-byte number: its bytes, least significant first (R67). -/
def HostOp.wideWrite (addr n v : Nat) : HostOp := .memWrite addr (leBytes n v)

/-- The number a read returned: a register's value, or DMEM bytes assembled little-endian (R67). -/
def Reply.value : Reply → Nat
  | .word v => v.toNat
  | .bytes bs => leValue bs

/-! ### Whose turn it is -/

/-- Both agents can move: a command is pending and the host has an operation to do (P6). -/
def State.contested (s : State) : Bool := s.busy && !s.program.isEmpty

/-- Who moves next. A contested step goes to the agent `turns` names, and to the engine when `turns` is used up, so a
pending command always completes (R271, R310). -/
inductive Mover where
  | engine
  | host
  | nobody
  deriving DecidableEq, Repr

/-- The agent that moves (R78, R271, R282): with no command pending and no host operation left, nobody. -/
def State.mover (s : State) : Mover :=
  if s.busy then
    if s.program.isEmpty then .engine
    else
      match s.turns with
      | .host :: _ => .host
      | .engine :: _ => .engine
      | [] => .engine
  else if s.program.isEmpty then .nobody
  else .host

/-- The state the moving agent finds: a contested step has used up its turn. -/
def State.takeTurn (s : State) : State := if s.contested then { s with turns := s.turns.tail } else s

/-! ### What the engine runs next -/

/-- The decoded command in flight (R46, R95): none when nothing is pending or the word is illegal (R96). -/
def State.fetched (s : State) : Option Instr :=
  match s.latch with
  | none => none
  | some l =>
    match decode l.word with
    | .ok i => some i
    | .error _ => none

/-- An illegal word is rejected with ILLEGAL and no other effect (R96, R264). -/
def State.rejectIllegal (s : State) : State := s.complete .illegal

/-- A command word given as `nbits` bits of the number `w` is pending and the engine moves next: its CMD write has been
accepted (R271), and no contested turn goes to the host (log 11). -/
def State.placeCommand (s : State) (nbits w : Nat) : State :=
  { s.accept (BitVec.ofNat 32 (w % 2 ^ nbits)) with turns := [] }

end Sys2Proof.Machine
end

