-- ==== Sys2Proof/Machine/Step.lean ====
section
/-! DEFINITION. One step of the machine: one host operation, or one whole command (20_memory.md R75, R78). -/

namespace Sys2Proof.Machine

/-- One step (R75, R78, R271). The engine runs the latched command, or rejects an illegal word; the host does its next
operation; when neither has anything to do "the engine is idle and keeps all its state" (R282). -/
def step (s : State) : Host.Outcome State Fault Refusal :=
  match s.mover with
  | .nobody => .next s
  | .host => hostStep s.takeTurn
  | .engine =>
    match s.takeTurn.fetched with
    | some i => exec i s.takeTurn
    | none => .next s.takeTurn.rejectIllegal

/-- The state with that command word pending, so that the very next step runs it (log 11). -/
def State.withFetchWord (s : State) (nbits w : Nat) : State := s.placeCommand nbits w

end Sys2Proof.Machine
end

