-- ==== Sys2Proof/Machine/Asm.lean ====
section
/-! DEFINITION. The pseudo-instructions of a host program and their expansions (30_encoding.md R99). -/

namespace Sys2Proof.Machine

/-- The command a line names, with its immediates in their bytes (R99); `check` names none. -/
def asmInstr : AsmLine → Option Instr
  | .permute => some .permute
  | .stateZero => some .stateZero
  | .stateLoad _ => some .stateLoad
  | .stateStore _ => some .stateStore
  | .stateXorByte i v => some (.stateXorByte (BitVec.ofNat 8 i) (BitVec.ofNat 8 v))
  | .duplexAbsorb _ _ => some .duplexAbsorb
  | .duplexAbsorbPad d => some (.duplexAbsorbPad (BitVec.ofNat 8 d))
  | .duplexSqueeze _ _ => some .duplexSqueeze
  | .aeadEncrypt _ _ _ _ _ _ _ => some .aeadEncrypt
  | .aeadDecrypt _ _ _ _ _ _ _ => some .aeadDecrypt
  | .hashInit => some .hashInit
  | .hashUpdate _ _ => some .hashUpdate
  | .hashFinalize _ => some .hashFinalize
  | .hashFinalizeXof _ _ => some .hashFinalizeXof
  | .hash _ _ _ => some .hash
  | .check => none

/-- One `W` per operand, in increasing register number from Ai; the offset of Ai is 0x20 + 4·i (R99). -/
def operandWrites : Nat → List Nat → List HostOp
  | _, [] => []
  | i, v :: vs => .regWrite (0x20 + 4 * i) 32 (BitVec.ofNat 32 v) :: operandWrites (i + 1) vs

/-- The expansion of a line (R99), or no operation list when the assembler refuses it. -/
def expand (l : AsmLine) : Option (List HostOp) :=
  if l.wf then
    match asmInstr l with
    | some i => some (operandWrites 0 l.operands ++ [.regWrite 0x00 32 (encode i), .poll])
    | none => some [.regRead 0x04 32, .regWrite 0x04 32 0x00000002#32]
  else none

end Sys2Proof.Machine
end

