-- ==== Sys2Proof/Safety.lean ====
section
/-! DEFINITION. The terms claims are stated in: regions in range and disjoint (20_memory.md R72-R74), the invariants of
the state, and the end of a run with its observation (70_reset_and_hazards.md R313). -/

namespace Sys2Proof.Machine

/-- The `len` bytes at `addr` are a region in range of this machine's DMEM (R72, R73). -/
abbrev InRange (s : State) (addr len : Nat) : Prop := len = 0 ∨ addr + len ≤ s.params.dmemSize

/-- No byte belongs to both regions (R73, R74). -/
abbrev Apart (a m b n : Nat) : Prop := m = 0 ∨ n = 0 ∨ a + m ≤ b ∨ b + n ≤ a

/-- An address inside a region (R72). -/
abbrev Inside (a addr len : Nat) : Prop := addr ≤ a ∧ a < addr + len

/-- A POS that the spec lets occur: 0..16 (R34). -/
abbrev State.PosLegal (s : State) : Prop := s.pos.toNat ≤ 16

/-- DMEM is in its canonical form and every recorded byte lies below DMEM_SIZE (R66; log 7). -/
abbrev State.MemLegal (s : State) : Prop := Memory.wf s.dmem ∧ Memory.inside s.params.dmemSize s.dmem

/-- "DONE is already 0 while BUSY = 1" (R306). -/
abbrev State.BusyNotDone (s : State) : Prop := s.busy = true → s.done = false

/-- CMD reads as the word of the command in flight (R37, R271, R272). -/
abbrev State.CmdIsLatched (s : State) : Prop := ∀ l, s.latch = some l → l.word = s.cmd

/-- The invariant of the machine. -/
structure State.Inv (s : State) : Prop where
  pos : s.PosLegal
  mem : s.MemLegal
  busyNotDone : s.BusyNotDone
  cmdIsLatched : s.CmdIsLatched

/-- A run is over when the host program is done and BUSY = 0 (R313). -/
abbrev State.RunOver (s : State) : Prop := s.program = [] ∧ s.busy = false

/-- The observation at the end of a run (R313): the REG read values, S, POS, CTX, DMEM and irq. DMEM is the byte each
address of 0..DMEM_SIZE-1 holds. -/
structure Observation where
  cmd : Word
  status : Word
  ctrl : Word
  operands : Vector Word 8
  gimli : Gimli
  pos : BitVec 5
  ctx : Ctx
  dmem : List Byte
  irq : Bool
  deriving DecidableEq, Repr

/-- What is observed of a state (R313). -/
def State.observe (s : State) : Observation where
  cmd := s.readReg .cmd
  status := s.readReg .status
  ctrl := s.readReg .ctrl
  operands := s.a
  gimli := s.gimli
  pos := s.pos
  ctx := s.ctx
  dmem := s.readBytes 0 s.params.dmemSize
  irq := s.irq

/-- `n` steps of the machine: the state after them, if no step was refused (R313). -/
def State.after : Nat → State → Option State
  | 0, s => some s
  | n + 1, s =>
    match step s with
    | .next t => State.after n t
    | .fault _ => none
    | .refused _ => none

end Sys2Proof.Machine
end

