-- ==== Sys2Proof/Certificates/Slice0/Obligations.lean ====
section
/-! DEFINITION. The statements about the GIMLI core, from the numbered rules of spec/. Each says for which states and
operands it speaks; `exec i s = .next t` is the engine's atomic step on command i (20_memory.md R75). -/

open Sys2Proof Sys2Proof.Machine

/-! ### Encoding (30_encoding.md) -/

/-- Every command, with its operand bytes at every value, is read back from its own word (R90, R94, R95, R99). -/
def Obligations.DecodeAfterEncode : Prop := ∀ i : Instr, decode (encode i) = .ok i

/-- A legal word has one meaning and no bit of it is dropped: the command read from it encodes to it (R90, R91, R95). -/
def Obligations.EncodeAfterDecode : Prop := ∀ (w : Word) (i : Instr), decode w = .ok i → encode i = w

/-- R91 and R95: a word is the command of the row it matches; two rows never match one word; and in a legal word every
field the opcode does not use is zero. -/
def Obligations.OneRowDecidesAWord : Prop :=
  (∀ (w : Word) (i : Instr), decode w = .ok i ↔ ∃ r ∈ opcodeTable, w &&& r.mask = r.pattern ∧ i = r.instr w) ∧
  opcodeTable.Pairwise (fun r q => ∀ w : Word, ¬(w &&& r.mask = r.pattern ∧ w &&& q.mask = q.pattern)) ∧
  (∀ w : Word, (∀ r ∈ opcodeTable, w &&& r.mask ≠ r.pattern) → ∃ e, decode w = .error e) ∧
  (∀ (w : Word) (i : Instr), decode w = .ok i →
    rsvField w = 0#8 ∧
    (imm8Field w ≠ 0#8 → (∃ idx v, i = .stateXorByte idx v) ∨ ∃ d, i = .duplexAbsorbPad d) ∧
    (idxField w ≠ 0#8 → ∃ idx v, i = .stateXorByte idx v))

/-- R96 and R264: exactly these words are illegal, and the engine rejects each with ILLEGAL and no other effect; the
seven example words give STATUS 0x00000012 from reset. -/
def Obligations.IllegalWordsAreRejected : Prop :=
  (∀ w : Word, (∃ e, decode w = .error e) ↔
    (opField w ∉ [0x01#8, 0x02#8, 0x03#8, 0x04#8, 0x05#8, 0x10#8, 0x11#8, 0x12#8, 0x20#8, 0x21#8, 0x30#8, 0x31#8,
        0x32#8, 0x33#8, 0x34#8] ∨
      rsvField w ≠ 0#8 ∨ (imm8Field w ≠ 0#8 ∧ opField w ≠ 0x05#8 ∧ opField w ≠ 0x11#8) ∨
      (idxField w ≠ 0#8 ∧ opField w ≠ 0x05#8))) ∧
  (∀ (s : State) (l : Latch), s.latch = some l → s.mover = .engine → (∃ e, decode l.word = .error e) →
    step s = .next { s.takeTurn with latch := none, done := true, errcode := .illegal }) ∧
  (∀ (s : State) (l : Latch) (i : Instr) (t : State), s.latch = some l → s.mover = .engine →
    decode l.word = .ok i → step s = .next t → t.errcode ≠ .illegal) ∧
  (∀ w ∈ [0x00000000, 0x00000006, 0x000000FF, 0x01000001, 0x00000101, 0x00010002, 0x80000011],
    ∃ t, step (State.reset.withFetchWord 32 w) = .next t ∧ statusWord t = 0x00000012#32)

/-- The words of R94 and R99, one for each command, decode to the command they stand for. -/
def Obligations.SpecWordsDecode : Prop :=
  decode 0x00000001#32 = .ok .permute ∧ decode 0x00000002#32 = .ok .stateZero ∧
  decode 0x00000003#32 = .ok .stateLoad ∧ decode 0x00000004#32 = .ok .stateStore ∧
  decode 0x002F8005#32 = .ok (.stateXorByte 47#8 0x80#8) ∧ decode 0x00000010#32 = .ok .duplexAbsorb ∧
  decode 0x00001F11#32 = .ok (.duplexAbsorbPad 0x1F#8) ∧ decode 0x00000012#32 = .ok .duplexSqueeze ∧
  decode 0x00000020#32 = .ok .aeadEncrypt ∧ decode 0x00000021#32 = .ok .aeadDecrypt ∧
  decode 0x00000030#32 = .ok .hashInit ∧ decode 0x00000031#32 = .ok .hashUpdate ∧
  decode 0x00000032#32 = .ok .hashFinalize ∧ decode 0x00000033#32 = .ok .hashFinalizeXof ∧
  decode 0x00000034#32 = .ok .hash

/-- The assembler (R99): it refuses exactly the lines whose byte operands do not fit a byte (and, the model's choice of
log 15, those whose register operands do not fit a register); and the expansion of each of the 16 lines of R99. -/
def Obligations.PseudoInstructionsExpand : Prop :=
  (∀ l : AsmLine, expand l = none ↔
    (∃ v ∈ l.immediates, 256 ≤ v) ∨ ∃ v ∈ l.operands, 2 ^ 32 ≤ v) ∧
  (expand .permute = some [.regWrite 0x00 32 0x00000001#32, .poll] ∧
    expand .stateZero = some [.regWrite 0x00 32 0x00000002#32, .poll] ∧
    expand .hashInit = some [.regWrite 0x00 32 0x00000030#32, .poll] ∧
    expand .check = some [.regRead 0x04 32, .regWrite 0x04 32 0x00000002#32]) ∧
  (∀ i v : Nat, i < 256 → v < 256 → expand (.stateXorByte i v) =
    some [.regWrite 0x00 32 (0x00000005#32 ||| (BitVec.ofNat 32 v <<< 8) ||| (BitVec.ofNat 32 i <<< 16)), .poll]) ∧
  (∀ d : Nat, d < 256 → expand (.duplexAbsorbPad d) =
    some [.regWrite 0x00 32 (0x00000011#32 ||| (BitVec.ofNat 32 d <<< 8)), .poll]) ∧
  (∀ a : Nat, a < 2 ^ 32 →
    expand (.stateLoad a) =
      some [.regWrite 0x20 32 (BitVec.ofNat 32 a), .regWrite 0x00 32 0x00000003#32, .poll] ∧
    expand (.stateStore a) =
      some [.regWrite 0x20 32 (BitVec.ofNat 32 a), .regWrite 0x00 32 0x00000004#32, .poll] ∧
    expand (.hashFinalize a) =
      some [.regWrite 0x20 32 (BitVec.ofNat 32 a), .regWrite 0x00 32 0x00000032#32, .poll]) ∧
  (∀ a n : Nat, a < 2 ^ 32 → n < 2 ^ 32 →
    expand (.duplexAbsorb a n) = some [.regWrite 0x20 32 (BitVec.ofNat 32 a), .regWrite 0x24 32 (BitVec.ofNat 32 n),
      .regWrite 0x00 32 0x00000010#32, .poll] ∧
    expand (.duplexSqueeze a n) = some [.regWrite 0x20 32 (BitVec.ofNat 32 a), .regWrite 0x24 32 (BitVec.ofNat 32 n),
      .regWrite 0x00 32 0x00000012#32, .poll] ∧
    expand (.hashUpdate a n) = some [.regWrite 0x20 32 (BitVec.ofNat 32 a), .regWrite 0x24 32 (BitVec.ofNat 32 n),
      .regWrite 0x00 32 0x00000031#32, .poll] ∧
    expand (.hashFinalizeXof a n) = some [.regWrite 0x20 32 (BitVec.ofNat 32 a),
      .regWrite 0x24 32 (BitVec.ofNat 32 n), .regWrite 0x00 32 0x00000033#32, .poll]) ∧
  (∀ a n d : Nat, a < 2 ^ 32 → n < 2 ^ 32 → d < 2 ^ 32 → expand (.hash a n d) =
    some [.regWrite 0x20 32 (BitVec.ofNat 32 a), .regWrite 0x24 32 (BitVec.ofNat 32 n),
      .regWrite 0x28 32 (BitVec.ofNat 32 d), .regWrite 0x00 32 0x00000034#32, .poll]) ∧
  (∀ k n a al b bl t : Nat, k < 2 ^ 32 → n < 2 ^ 32 → a < 2 ^ 32 → al < 2 ^ 32 → b < 2 ^ 32 → bl < 2 ^ 32 →
    t < 2 ^ 32 →
    expand (.aeadEncrypt k n a al b bl t) =
      some [.regWrite 0x20 32 (BitVec.ofNat 32 k), .regWrite 0x24 32 (BitVec.ofNat 32 n),
        .regWrite 0x28 32 (BitVec.ofNat 32 a), .regWrite 0x2C 32 (BitVec.ofNat 32 al),
        .regWrite 0x30 32 (BitVec.ofNat 32 b), .regWrite 0x34 32 (BitVec.ofNat 32 bl),
        .regWrite 0x38 32 (BitVec.ofNat 32 t), .regWrite 0x00 32 0x00000020#32, .poll] ∧
    expand (.aeadDecrypt k n a al b bl t) =
      some [.regWrite 0x20 32 (BitVec.ofNat 32 k), .regWrite 0x24 32 (BitVec.ofNat 32 n),
        .regWrite 0x28 32 (BitVec.ofNat 32 a), .regWrite 0x2C 32 (BitVec.ofNat 32 al),
        .regWrite 0x30 32 (BitVec.ofNat 32 b), .regWrite 0x34 32 (BitVec.ofNat 32 bl),
        .regWrite 0x38 32 (BitVec.ofNat 32 t), .regWrite 0x00 32 0x00000021#32, .poll])

/-! ### Steps (20_memory.md R75, R78; 60_exceptions.md R271) -/

/-- When the latched word decodes and the engine moves, the step is the meaning of the command it decodes to: one step
a command, as R75 allows and log 3 (DEDUCED) reads it. The second conjunct is the model's own choice and no rule of the
spec (log 2, DESIGN CHOICE): a step that both agents could have taken uses up one entry of `turns`, and nothing else is
added around `exec`. -/
def Obligations.StepRunsTheLatchedCommand : Prop :=
  ∀ (s : State) (l : Latch) (i : Instr), s.latch = some l → decode l.word = .ok i → s.mover = .engine →
    step s = exec i s.takeTurn ∧ s.takeTurn = (if s.program = [] then s else { s with turns := s.turns.tail })

/-- When the host moves, the step is its next operation, taken off the program; with no command pending and no operation
left the machine idles and keeps all its state (R78, R282). -/
def Obligations.StepRunsTheHostProgram : Prop :=
  (∀ (s : State) (op : HostOp) (rest : List HostOp), s.mover = .host → s.program = op :: rest →
    step s = hostOp op { s.takeTurn with program := rest }) ∧
  (∀ s : State, s.latch = none → s.program = [] → step s = .next s) ∧
  (∀ s : State, s.latch = none → s.program ≠ [] → s.mover = .host) ∧
  (∀ s : State, s.latch ≠ none → s.program = [] → s.mover = .engine)

/-! ### The permutation (40_permutation.md) -/

/-- R134, R135: the two swaps, in word terms; rows 1 and 2 are untouched. -/
def Obligations.SwapsExchangeRowZero : Prop :=
  ∀ g : Gimli,
    (wordAt (smallSwap g) 0 = wordAt g 1 ∧ wordAt (smallSwap g) 1 = wordAt g 0 ∧
      wordAt (smallSwap g) 2 = wordAt g 3 ∧ wordAt (smallSwap g) 3 = wordAt g 2 ∧
      ∀ j, 4 ≤ j → wordAt (smallSwap g) j = wordAt g j) ∧
    (wordAt (bigSwap g) 0 = wordAt g 2 ∧ wordAt (bigSwap g) 1 = wordAt g 3 ∧
      wordAt (bigSwap g) 2 = wordAt g 0 ∧ wordAt (bigSwap g) 3 = wordAt g 1 ∧
      ∀ j, 4 ≤ j → wordAt (bigSwap g) j = wordAt g j)

/-- R131, R132: the three results of the SP-box of column x, from the old values; the other columns are untouched; the
columns may be computed in any order; and the SP layer applies the SP-box to each of the four columns (as R130 has it),
so that a column of it depends on that column alone. -/
def Obligations.SpBoxActsOnOneColumn : Prop :=
  (∀ (g : Gimli) (x : Nat) (a b c : Word), x < 4 →
    a = (wordAt g x <<< 24) ||| (wordAt g x >>> 8) →
    b = (wordAt g (4 + x) <<< 9) ||| (wordAt g (4 + x) >>> 23) → c = wordAt g (8 + x) →
    wordAt (spBox g x) (8 + x) = a ^^^ (c <<< 1) ^^^ ((b &&& c) <<< 2) ∧
    wordAt (spBox g x) (4 + x) = b ^^^ a ^^^ ((a ||| c) <<< 1) ∧
    wordAt (spBox g x) x = c ^^^ b ^^^ ((a &&& b) <<< 3) ∧
    ∀ j, j % 4 ≠ x → wordAt (spBox g x) j = wordAt g j) ∧
  (∀ (g : Gimli) (x y : Nat), x < 4 → y < 4 → x ≠ y → spBox (spBox g x) y = spBox (spBox g y) x) ∧
  (∀ (g h : Gimli) (x : Nat), x < 4 → (∀ y, y < 3 → matrixAt g y x = matrixAt h y x) →
    ∀ y, y < 3 → matrixAt (spLayer g) y x = matrixAt (spLayer h) y x) ∧
  (∀ (g : Gimli) (x y : Nat), x < 4 → y < 3 → matrixAt (spLayer g) y x = matrixAt (spBox g x) y x)

/-- R133: the linear layer of round r, in word terms, the constant XORed after the small swap; and the six values of the
round constant that R136 lists. -/
def Obligations.LinearLayerByRound : Prop :=
  (∀ (g : Gimli) (r : Nat), r % 4 = 0 →
    wordAt (linearLayer g r) 0 = wordAt g 1 ^^^ (0x9E377900#32 ||| BitVec.ofNat 32 r) ∧
    wordAt (linearLayer g r) 1 = wordAt g 0 ∧ wordAt (linearLayer g r) 2 = wordAt g 3 ∧
    wordAt (linearLayer g r) 3 = wordAt g 2 ∧ ∀ j, 4 ≤ j → wordAt (linearLayer g r) j = wordAt g j) ∧
  (∀ (g : Gimli) (r : Nat), r % 4 = 2 → linearLayer g r = bigSwap g) ∧
  (∀ (g : Gimli) (r : Nat), r % 4 = 1 ∨ r % 4 = 3 → linearLayer g r = g) ∧
  (roundConstant 24 = 0x9E377918#32 ∧ roundConstant 20 = 0x9E377914#32 ∧ roundConstant 16 = 0x9E377910#32 ∧
    roundConstant 12 = 0x9E37790C#32 ∧ roundConstant 8 = 0x9E377908#32 ∧ roundConstant 4 = 0x9E377904#32)

/-- The round schedule, which R138 derives from R130 and R133 (the spec's own inference): what each of the 24 rounds is,
and that P is these rounds, from round 24 down to round 1. -/
def Obligations.RoundScheduleOfP : Prop :=
  (∀ (g : Gimli) (r : Nat), r ∈ [24, 20, 16, 12, 8, 4] → gimliRound g r =
    setWordAt (smallSwap (spLayer g)) 0 (wordAt (smallSwap (spLayer g)) 0 ^^^ roundConstant r)) ∧
  (∀ (g : Gimli) (r : Nat), r ∈ [22, 18, 14, 10, 6, 2] → gimliRound g r = bigSwap (spLayer g)) ∧
  (∀ (g : Gimli) (r : Nat), r ∈ [23, 21, 19, 17, 15, 13, 11, 9, 7, 5, 3, 1] → gimliRound g r = spLayer g) ∧
  (∀ g : Gimli, permute g =
    [24, 23, 22, 21, 20, 19, 18, 17, 16, 15, 14, 13, 12, 11, 10, 9, 8, 7, 6, 5, 4, 3, 2, 1].foldl gimliRound g)

/-- "P is a permutation", as R209 says in passing: no two states have the same image, and every state is an image. -/
def Obligations.PermuteIsBijective : Prop := Function.Bijective permute

/-- R30: the word view and the byte view of S alias one storage. -/
def Obligations.ByteAndWordViewsAlias : Prop :=
  (∀ (g : Gimli) (j : Nat), j < 12 → wordAt g j =
    (byteAt g (4 * j)).setWidth 32 ||| ((byteAt g (4 * j + 1)).setWidth 32 <<< 8) |||
      ((byteAt g (4 * j + 2)).setWidth 32 <<< 16) ||| ((byteAt g (4 * j + 3)).setWidth 32 <<< 24)) ∧
  (∀ (g : Gimli) (i : Nat) (v : Byte), i < 48 →
    byteAt (setByteAt g i v) i = v ∧ ∀ j, j ≠ i → byteAt (setByteAt g i v) j = byteAt g j) ∧
  (∀ (g : Gimli) (j : Nat) (v : Word), j < 12 →
    wordAt (setWordAt g j v) j = v ∧ (∀ k, k ≠ j → wordAt (setWordAt g j v) k = wordAt g k) ∧
    ∀ k, k < 4 → byteAt (setWordAt g j v) (4 * j + k) = v.extractLsb' (8 * k) 8)

/-! ### The duplex helpers (41_duplex.md R170-R174, R178, R179) -/

/-- R171, R172: ensure_room and absorb_byte at each place POS can stand; and absorbing a string is the loop of
absorb_byte over its bytes in order, which R175 writes out: no byte leaves S and POS as they are. -/
def Obligations.AbsorbByteAtEachPosition : Prop :=
  (∀ d : Sponge, d.pos = 16#5 → ensureRoom d = { gimli := permute d.gimli, pos := 0#5 }) ∧
  (∀ d : Sponge, d.pos.toNat < 16 → ensureRoom d = d) ∧
  (∀ (g : Gimli) (p : BitVec 5) (v : Byte), p.toNat < 15 →
    absorbByte { gimli := g, pos := p } v = { gimli := xorByteAt g p.toNat v, pos := p + 1#5 }) ∧
  (∀ (g : Gimli) (v : Byte),
    absorbByte { gimli := g, pos := 15#5 } v = { gimli := permute (xorByteAt g 15 v), pos := 0#5 }) ∧
  (∀ (g : Gimli) (v : Byte),
    absorbByte { gimli := g, pos := 16#5 } v = { gimli := xorByteAt (permute g) 0 v, pos := 1#5 }) ∧
  (∀ (d : Sponge) (v : Byte) (vs : List Byte), absorb d [] = d ∧ absorb d (v :: vs) = absorb (absorbByte d v) vs)

/-- R173: absorb_pad permutes the state whose byte POS has the domain byte XORed in and whose byte 47 the terminator,
the two being different bytes; with the source's terminator 0x80 that is word 11 XOR 0x80000000; with POS = 16 one more
permutation comes first. -/
def Obligations.AbsorbPadXorsDomainAndTerminator : Prop :=
  (∀ (g : Gimli) (p : BitVec 5) (term dom : Byte), p.toNat ≤ 15 →
    ∃ h : Gimli, absorbPad term { gimli := g, pos := p } dom = { gimli := permute h, pos := 0#5 } ∧
      byteAt h p.toNat = byteAt g p.toNat ^^^ dom ∧ byteAt h 47 = byteAt g 47 ^^^ term ∧
      (∀ i, i ≠ p.toNat → i ≠ 47 → byteAt h i = byteAt g i) ∧
      (term = 0x80#8 → wordAt h 11 = wordAt g 11 ^^^ 0x80000000#32)) ∧
  (∀ (g : Gimli) (term dom : Byte),
    absorbPad term { gimli := g, pos := 16#5 } dom = absorbPad term { gimli := permute g, pos := 0#5 } dom)

/-- R174: squeeze_byte at each place POS can stand; the first block after a pad comes out with no further permutation,
and each later block after exactly one; and squeezing n bytes is the loop of n squeeze_byte steps, which R177 writes
out: no byte leaves S and POS as they are. -/
def Obligations.SqueezeIsLazy : Prop :=
  (∀ (g : Gimli) (p : BitVec 5), p.toNat < 16 →
    squeezeByte { gimli := g, pos := p } = (byteAt g p.toNat, { gimli := g, pos := p + 1#5 })) ∧
  (∀ g : Gimli, squeezeByte { gimli := g, pos := 16#5 } =
    (byteAt (permute g) 0, { gimli := permute g, pos := 1#5 })) ∧
  (∀ (term dom : Byte) (d : Sponge), squeeze 16 (absorbPad term d dom) =
    (gimliBytes (absorbPad term d dom).gimli 0 16, { gimli := (absorbPad term d dom).gimli, pos := 16#5 })) ∧
  (∀ g : Gimli, squeeze 16 { gimli := g, pos := 16#5 } =
    (gimliBytes (permute g) 0 16, { gimli := permute g, pos := 16#5 })) ∧
  (∀ (n : Nat) (d : Sponge), squeeze 0 d = ([], d) ∧ squeeze (n + 1) d =
    ((squeezeByte d).1 :: (squeeze n (squeezeByte d).2).1, (squeeze n (squeezeByte d).2).2))

/-- The block rule, which R179 derives from R171-R173 (the spec's own inference): from POS = 0, a block of n ≤ 16 bytes
is XORed into state bytes [0, n); a full block is then permuted, and a partial one leaves POS = n. -/
def Obligations.AbsorbAgreesWithBlockRule : Prop :=
  ∀ (g : Gimli) (bs : List Byte), bs.length ≤ 16 →
    ∃ h : Gimli,
      (∀ i, ∀ hi : i < bs.length, byteAt h i = byteAt g i ^^^ bs[i]) ∧
      (∀ i, bs.length ≤ i → byteAt h i = byteAt g i) ∧
      (bs.length = 16 → absorb { gimli := g, pos := 0#5 } bs = { gimli := permute h, pos := 0#5 }) ∧
      (bs.length < 16 → absorb { gimli := g, pos := 0#5 } bs = { gimli := h, pos := BitVec.ofNat 5 bs.length })

/-- The concatenation laws, which R178 derives from R171-R177 (the spec's own inference): two absorb commands on the
pieces of a string leave the S and POS of one on the whole string, and two squeeze commands give the bytes, S and POS of
one of the summed length. Here the second command of a pair starts from the S and POS the first left, and the single
command from those the first started with. -/
def Obligations.AbsorbAndSqueezeConcatenate : Prop :=
  (∀ s₁ t₁ s₂ t₂ r t : State,
    exec .duplexAbsorb s₁ = .next t₁ → t₁.errcode = .ok → s₂.gimli = t₁.gimli → s₂.pos = t₁.pos →
    exec .duplexAbsorb s₂ = .next t₂ → t₂.errcode = .ok → r.gimli = s₁.gimli → r.pos = s₁.pos →
    exec .duplexAbsorb r = .next t → t.errcode = .ok →
    r.readBytes (r.operand 0) (r.operand 1) =
      s₁.readBytes (s₁.operand 0) (s₁.operand 1) ++ s₂.readBytes (s₂.operand 0) (s₂.operand 1) →
    t.gimli = t₂.gimli ∧ t.pos = t₂.pos) ∧
  (∀ s₁ t₁ s₂ t₂ r t : State,
    exec .duplexSqueeze s₁ = .next t₁ → t₁.errcode = .ok → s₂.gimli = t₁.gimli → s₂.pos = t₁.pos →
    exec .duplexSqueeze s₂ = .next t₂ → t₂.errcode = .ok → r.gimli = s₁.gimli → r.pos = s₁.pos →
    exec .duplexSqueeze r = .next t → t.errcode = .ok → r.operand 1 = s₁.operand 1 + s₂.operand 1 →
    t.readBytes (r.operand 0) (r.operand 1) =
      t₁.readBytes (s₁.operand 0) (s₁.operand 1) ++ t₂.readBytes (s₂.operand 0) (s₂.operand 1) ∧
    t.gimli = t₂.gimli ∧ t.pos = t₂.pos)

/-! ### The state commands (R139-R143) -/

/-- R139: PERMUTE from any state, and everything it leaves alone. -/
def Obligations.PermuteCommand : Prop :=
  ∀ s : State, exec .permute s =
    .next { s with gimli := permute s.gimli, ctx := .none, latch := none, done := true, errcode := .ok }

/-- R140, R230: STATE_ZERO and HASH_INIT from any state; they differ in CTX only. -/
def Obligations.ZeroAndHashInitCommands : Prop :=
  ∀ s : State,
    exec .stateZero s = .next { s with
      gimli := Vector.replicate 12 0#32, pos := 0#5, ctx := .none, latch := none, done := true, errcode := .ok } ∧
    exec .hashInit s = .next { s with
      gimli := Vector.replicate 12 0#32, pos := 0#5, ctx := .hash, latch := none, done := true, errcode := .ok }

/-- R141: STATE_LOAD with its region in range loads S byte for byte; otherwise it is rejected with RANGE. -/
def Obligations.StateLoadCommand : Prop :=
  ∀ s : State,
    (s.operand 0 + 48 ≤ s.params.dmemSize →
      ∃ g : Gimli, (∀ i, i < 48 → byteAt g i = Memory.read s.dmem (s.operand 0 + i)) ∧
        exec .stateLoad s = .next { s with
          gimli := g, pos := 0#5, ctx := .none, latch := none, done := true, errcode := .ok }) ∧
    (s.params.dmemSize < s.operand 0 + 48 →
      exec .stateLoad s = .next { s with latch := none, done := true, errcode := .range })

/-- R142: STATE_STORE with its region in range writes the 48 bytes of S there and changes nothing else; otherwise it is
rejected with RANGE. -/
def Obligations.StateStoreCommand : Prop :=
  ∀ s : State,
    (s.operand 0 + 48 ≤ s.params.dmemSize →
      ∃ m, exec .stateStore s = .next { s with dmem := m, latch := none, done := true, errcode := .ok } ∧
        (∀ i, i < 48 → Memory.read m (s.operand 0 + i) = byteAt s.gimli i) ∧
        ∀ a, ¬Inside a (s.operand 0) 48 → Memory.read m a = Memory.read s.dmem a) ∧
    (s.params.dmemSize < s.operand 0 + 48 →
      exec .stateStore s = .next { s with latch := none, done := true, errcode := .range })

/-- R143, R265: STATE_XOR_BYTE on a state byte, and its rejection with OPERAND for IDX ≥ 48. -/
def Obligations.StateXorByteCommand : Prop :=
  ∀ (s : State) (idx v : Byte),
    (idx.toNat < 48 →
      ∃ g : Gimli, byteAt g idx.toNat = byteAt s.gimli idx.toNat ^^^ v ∧
        (∀ j, j ≠ idx.toNat → byteAt g j = byteAt s.gimli j) ∧
        exec (.stateXorByte idx v) s = .next { s with
          gimli := g, ctx := .none, latch := none, done := true, errcode := .ok }) ∧
    (48 ≤ idx.toNat →
      exec (.stateXorByte idx v) s = .next { s with latch := none, done := true, errcode := .operand })

/-! ### The duplex commands (R175-R177) -/

/-- R175: DUPLEX_ABSORB with its region in range; otherwise RANGE. -/
def Obligations.DuplexAbsorbCommand : Prop :=
  ∀ s : State,
    (InRange s (s.operand 0) (s.operand 1) →
      exec .duplexAbsorb s = .next { s with
        gimli := (absorb { gimli := s.gimli, pos := s.pos } (Memory.readBytes s.dmem (s.operand 0) (s.operand 1))).gimli
        pos := (absorb { gimli := s.gimli, pos := s.pos } (Memory.readBytes s.dmem (s.operand 0) (s.operand 1))).pos
        ctx := .none, latch := none, done := true, errcode := .ok }) ∧
    (¬InRange s (s.operand 0) (s.operand 1) →
      exec .duplexAbsorb s = .next { s with latch := none, done := true, errcode := .range })

/-- R176: DUPLEX_ABSORB_PAD from any state. -/
def Obligations.DuplexAbsorbPadCommand : Prop :=
  ∀ (s : State) (d : Byte), exec (.duplexAbsorbPad d) s = .next { s with
    gimli := (absorbPad s.params.padTerm { gimli := s.gimli, pos := s.pos } d).gimli
    pos := 0#5, ctx := .none, latch := none, done := true, errcode := .ok }

/-- R177: DUPLEX_SQUEEZE with its region in range writes the squeezed bytes there and leaves every other byte alone;
otherwise RANGE. -/
def Obligations.DuplexSqueezeCommand : Prop :=
  ∀ s : State,
    (InRange s (s.operand 0) (s.operand 1) →
      ∃ m, exec .duplexSqueeze s = .next { s with
          gimli := (squeeze (s.operand 1) { gimli := s.gimli, pos := s.pos }).2.gimli
          pos := (squeeze (s.operand 1) { gimli := s.gimli, pos := s.pos }).2.pos
          ctx := .none, dmem := m, latch := none, done := true, errcode := .ok } ∧
        Memory.readBytes m (s.operand 0) (s.operand 1) =
          (squeeze (s.operand 1) { gimli := s.gimli, pos := s.pos }).1 ∧
        ∀ a, ¬Inside a (s.operand 0) (s.operand 1) → Memory.read m a = Memory.read s.dmem a) ∧
    (¬InRange s (s.operand 0) (s.operand 1) →
      exec .duplexSqueeze s = .next { s with latch := none, done := true, errcode := .range })

/-! ### The AEAD commands (R201-R209) -/

/-- R201: aead_init puts the nonce in state bytes 0..15 and the key in 16..47, permutes, and sets POS to 0. -/
def Obligations.AeadInitLoadsNonceAndKey : Prop :=
  ∀ key nonce : List Byte, key.length = 32 → nonce.length = 16 →
    ∃ g : Gimli, aeadInit key nonce = { gimli := permute g, pos := 0#5 } ∧
      (∀ i, ∀ hi : i < nonce.length, byteAt g i = nonce[i]) ∧
      (∀ i, ∀ hi : i < key.length, byteAt g (16 + i) = key[i])

/-- R203, R204: one byte of the message loops, at each place POS can stand in them. Encrypting XORs the plaintext byte
into the rate byte, which is the ciphertext byte; decrypting gives the plaintext byte and puts the ciphertext byte (not
the plaintext) into the rate; after byte 15 comes a permutation; the loops run over the bytes in order, and a loop over
no bytes gives none and leaves S and POS as they are. -/
def Obligations.MessageByteGoesThroughTheRate : Prop :=
  (∀ (g : Gimli) (p : BitVec 5) (v : Byte), p.toNat ≤ 15 →
    ∃ h : Gimli, byteAt h p.toNat = byteAt g p.toNat ^^^ v ∧ (∀ j, j ≠ p.toNat → byteAt h j = byteAt g j) ∧
      encryptByte { gimli := g, pos := p } v = (byteAt g p.toNat ^^^ v,
        if p = 15#5 then { gimli := permute h, pos := 0#5 } else { gimli := h, pos := p + 1#5 })) ∧
  (∀ (g : Gimli) (p : BitVec 5) (c : Byte), p.toNat ≤ 15 →
    ∃ h : Gimli, byteAt h p.toNat = c ∧ (∀ j, j ≠ p.toNat → byteAt h j = byteAt g j) ∧
      decryptByte { gimli := g, pos := p } c = (byteAt g p.toNat ^^^ c,
        if p = 15#5 then { gimli := permute h, pos := 0#5 } else { gimli := h, pos := p + 1#5 })) ∧
  (∀ (d : Sponge) (v : Byte) (vs : List Byte),
    (encryptBytes d (v :: vs)).1 = (encryptByte d v).1 :: (encryptBytes (encryptByte d v).2 vs).1 ∧
    (encryptBytes d (v :: vs)).2 = (encryptBytes (encryptByte d v).2 vs).2 ∧
    (decryptBytes d (v :: vs)).1 = (decryptByte d v).1 :: (decryptBytes (decryptByte d v).2 vs).1 ∧
    (decryptBytes d (v :: vs)).2 = (decryptBytes (decryptByte d v).2 vs).2) ∧
  (∀ d : Sponge, encryptBytes d [] = ([], d) ∧ decryptBytes d [] = ([], d))

/-- R207: AEAD_ENCRYPT with its five regions in range and no forbidden pair: the buffer becomes the ciphertext, the tag
is written, S and POS are scrubbed, and every other byte of DMEM and every other register is as before. -/
def Obligations.AeadEncryptCommand : Prop :=
  ∀ (s : State) (k : Sponge) (r : List Byte × Sponge),
    InRange s (s.operand 0) 32 → InRange s (s.operand 1) 16 → InRange s (s.operand 2) (s.operand 3) →
    InRange s (s.operand 4) (s.operand 5) → InRange s (s.operand 6) 16 →
    Apart (s.operand 4) (s.operand 5) (s.operand 0) 32 → Apart (s.operand 4) (s.operand 5) (s.operand 1) 16 →
    Apart (s.operand 4) (s.operand 5) (s.operand 2) (s.operand 3) →
    Apart (s.operand 4) (s.operand 5) (s.operand 6) 16 → Apart (s.operand 6) 16 (s.operand 0) 32 →
    Apart (s.operand 6) 16 (s.operand 1) 16 → Apart (s.operand 6) 16 (s.operand 2) (s.operand 3) →
    k = absorbPad s.params.padTerm
      (absorb (aeadInit (Memory.readBytes s.dmem (s.operand 0) 32) (Memory.readBytes s.dmem (s.operand 1) 16))
        (Memory.readBytes s.dmem (s.operand 2) (s.operand 3))) 0x01#8 →
    r = encryptBytes k (Memory.readBytes s.dmem (s.operand 4) (s.operand 5)) →
    ∃ m, exec .aeadEncrypt s = .next { s with
        gimli := Vector.replicate 12 0#32, pos := 0#5, ctx := .none, dmem := m, latch := none, done := true,
        errcode := .ok } ∧
      Memory.readBytes m (s.operand 4) (s.operand 5) = r.1 ∧
      (∀ i, i < 16 → Memory.read m (s.operand 6 + i) =
        byteAt (absorbPad s.params.padTerm r.2 0x01#8).gimli (s.params.tagBase.val + i)) ∧
      ∀ a, ¬Inside a (s.operand 4) (s.operand 5) → ¬Inside a (s.operand 6) 16 →
        Memory.read m a = Memory.read s.dmem a

/-- R208, R269: AEAD_DECRYPT with its five regions in range and the buffer apart from the other four. If the provided
tag is the computed one the buffer becomes the plaintext and the outcome is OK; if not the buffer is zeroed and the
outcome is AUTH_FAIL. S and POS are scrubbed either way, and every byte outside the buffer is as before. -/
def Obligations.AeadDecryptCommand : Prop :=
  ∀ (s : State) (k : Sponge) (r : List Byte × Sponge) (tag : List Byte),
    InRange s (s.operand 0) 32 → InRange s (s.operand 1) 16 → InRange s (s.operand 2) (s.operand 3) →
    InRange s (s.operand 4) (s.operand 5) → InRange s (s.operand 6) 16 →
    Apart (s.operand 4) (s.operand 5) (s.operand 0) 32 → Apart (s.operand 4) (s.operand 5) (s.operand 1) 16 →
    Apart (s.operand 4) (s.operand 5) (s.operand 2) (s.operand 3) →
    Apart (s.operand 4) (s.operand 5) (s.operand 6) 16 →
    k = absorbPad s.params.padTerm
      (absorb (aeadInit (Memory.readBytes s.dmem (s.operand 0) 32) (Memory.readBytes s.dmem (s.operand 1) 16))
        (Memory.readBytes s.dmem (s.operand 2) (s.operand 3))) 0x01#8 →
    r = decryptBytes k (Memory.readBytes s.dmem (s.operand 4) (s.operand 5)) →
    tag = gimliBytes (absorbPad s.params.padTerm r.2 0x01#8).gimli s.params.tagBase.val 16 →
    ∃ m e, exec .aeadDecrypt s = .next { s with
        gimli := Vector.replicate 12 0#32, pos := 0#5, ctx := .none, dmem := m, latch := none, done := true,
        errcode := e } ∧
      (Memory.readBytes s.dmem (s.operand 6) 16 = tag →
        e = .ok ∧ Memory.readBytes m (s.operand 4) (s.operand 5) = r.1) ∧
      (Memory.readBytes s.dmem (s.operand 6) 16 ≠ tag →
        e = .authFail ∧ Memory.readBytes m (s.operand 4) (s.operand 5) = List.replicate (s.operand 5) 0#8) ∧
      ∀ a, ¬Inside a (s.operand 4) (s.operand 5) → Memory.read m a = Memory.read s.dmem a

/-- The answer R206's tag comparison gives on two 16-byte strings: equality of all 16 bytes. The statement is about the
answer only, not about how many bytes are read on the way to it. -/
def Obligations.TagComparisonIsEquality : Prop :=
  ∀ t u : List Byte, t.length = 16 → u.length = 16 →
    (tagEqual t u = true ↔ ∀ i, i < 16 → t.getD i 0#8 = u.getD i 0#8)

/-- The round trip, which R211 lists among the consequences of the rules (the spec's own inference): for every key,
nonce, AAD and message, AEAD_DECRYPT on the output of AEAD_ENCRYPT (the same operands, DMEM as AEAD_ENCRYPT left it)
gives OK and restores the message, and every byte outside the tag is as it was before AEAD_ENCRYPT. -/
def Obligations.AeadRoundTrip : Prop :=
  ∀ s t u : State, exec .aeadEncrypt s = .next t → t.errcode = .ok →
    u.params = t.params → u.dmem = t.dmem → (∀ i, u.operand i = s.operand i) →
    ∃ v, exec .aeadDecrypt u = .next v ∧ v.errcode = .ok ∧
      v.readBytes (s.operand 4) (s.operand 5) = s.readBytes (s.operand 4) (s.operand 5) ∧
      ∀ a, ¬Inside a (s.operand 6) 16 → Memory.read v.dmem a = Memory.read s.dmem a

/-! ### The hash commands (R230-R236) -/

/-- R231, R266: HASH_UPDATE absorbs and keeps CTX = HASH; with CTX ≠ HASH it is rejected with SEQUENCE, whatever its
region, and else with its region out of range with RANGE. -/
def Obligations.HashUpdateCommand : Prop :=
  ∀ s : State,
    (s.ctx = .hash → InRange s (s.operand 0) (s.operand 1) →
      exec .hashUpdate s = .next { s with
        gimli := (absorb { gimli := s.gimli, pos := s.pos } (Memory.readBytes s.dmem (s.operand 0) (s.operand 1))).gimli
        pos := (absorb { gimli := s.gimli, pos := s.pos } (Memory.readBytes s.dmem (s.operand 0) (s.operand 1))).pos
        latch := none, done := true, errcode := .ok }) ∧
    (s.ctx ≠ .hash → exec .hashUpdate s = .next { s with latch := none, done := true, errcode := .sequence }) ∧
    (s.ctx = .hash → ¬InRange s (s.operand 0) (s.operand 1) →
      exec .hashUpdate s = .next { s with latch := none, done := true, errcode := .range })

/-- R232, R266: HASH_FINALIZE writes the 32-byte digest, two rate blocks with one permutation between them, leaves
POS = 16 and CTX = HASH_FINAL; and its two rejections. -/
def Obligations.HashFinalizeCommand : Prop :=
  ∀ (s : State) (g : Gimli),
    g = (absorbPad s.params.padTerm { gimli := s.gimli, pos := s.pos } 0x01#8).gimli →
    (s.ctx = .hash → s.operand 0 + 32 ≤ s.params.dmemSize →
      ∃ m, exec .hashFinalize s = .next { s with
          gimli := permute g, pos := 16#5, ctx := .hashFinal, dmem := m, latch := none, done := true,
          errcode := .ok } ∧
        Memory.readBytes m (s.operand 0) 32 = gimliBytes g 0 16 ++ gimliBytes (permute g) 0 16 ∧
        ∀ a, ¬Inside a (s.operand 0) 32 → Memory.read m a = Memory.read s.dmem a) ∧
    (s.ctx ≠ .hash → exec .hashFinalize s = .next { s with latch := none, done := true, errcode := .sequence }) ∧
    (s.ctx = .hash → s.params.dmemSize < s.operand 0 + 32 →
      exec .hashFinalize s = .next { s with latch := none, done := true, errcode := .range })

/-- R233, R266: HASH_FINALIZE_XOF writes A1 squeezed bytes after the pad, leaves CTX = HASH_FINAL and POS as R233 says;
and its two rejections. -/
def Obligations.HashFinalizeXofCommand : Prop :=
  ∀ (s : State) (d : Sponge),
    d = absorbPad s.params.padTerm { gimli := s.gimli, pos := s.pos } 0x01#8 →
    (s.ctx = .hash → InRange s (s.operand 0) (s.operand 1) →
      ∃ m p, exec .hashFinalizeXof s = .next { s with
          gimli := (squeeze (s.operand 1) d).2.gimli, pos := p, ctx := .hashFinal, dmem := m, latch := none,
          done := true, errcode := .ok } ∧
        p.toNat = (if s.operand 1 = 0 then 0 else if s.operand 1 % 16 = 0 then 16 else s.operand 1 % 16) ∧
        Memory.readBytes m (s.operand 0) (s.operand 1) = (squeeze (s.operand 1) d).1 ∧
        ∀ a, ¬Inside a (s.operand 0) (s.operand 1) → Memory.read m a = Memory.read s.dmem a) ∧
    (s.ctx ≠ .hash → exec .hashFinalizeXof s = .next { s with latch := none, done := true, errcode := .sequence }) ∧
    (s.ctx = .hash → ¬InRange s (s.operand 0) (s.operand 1) →
      exec .hashFinalizeXof s = .next { s with latch := none, done := true, errcode := .range })

/-- R234: the one-shot HASH, in every CTX, with both regions in range and apart; and its rejections with RANGE and
OVERLAP. -/
def Obligations.HashCommand : Prop :=
  ∀ (s : State) (g : Gimli),
    g = (absorbPad s.params.padTerm (absorb { gimli := Vector.replicate 12 0#32, pos := 0#5 }
      (Memory.readBytes s.dmem (s.operand 0) (s.operand 1))) 0x01#8).gimli →
    (InRange s (s.operand 0) (s.operand 1) → s.operand 2 + 32 ≤ s.params.dmemSize →
      Apart (s.operand 0) (s.operand 1) (s.operand 2) 32 →
      ∃ m, exec .hash s = .next { s with
          gimli := permute g, pos := 16#5, ctx := .hashFinal, dmem := m, latch := none, done := true,
          errcode := .ok } ∧
        Memory.readBytes m (s.operand 2) 32 = gimliBytes g 0 16 ++ gimliBytes (permute g) 0 16 ∧
        ∀ a, ¬Inside a (s.operand 2) 32 → Memory.read m a = Memory.read s.dmem a) ∧
    (¬InRange s (s.operand 0) (s.operand 1) ∨ s.params.dmemSize < s.operand 2 + 32 →
      exec .hash s = .next { s with latch := none, done := true, errcode := .range }) ∧
    (InRange s (s.operand 0) (s.operand 1) → s.operand 2 + 32 ≤ s.params.dmemSize →
      ¬Apart (s.operand 0) (s.operand 1) (s.operand 2) 32 →
      exec .hash s = .next { s with latch := none, done := true, errcode := .overlap })

/-- The chunking law of R235 (the spec's own inference from R178, R230-R234): HASH_INIT, any number n of HASH_UPDATEs of
the pieces of a string, in any cut, and HASH_FINALIZE write the digest that HASH of the whole string writes, and leave
its S, POS and CTX. Update k runs in `s k` and leaves `t (k + 1)`; each command starts from the S, POS and CTX the one
before it left. -/
def Obligations.ChunkedHashEqualsOneShot : Prop :=
  ∀ (n : Nat) (s t : Nat → State) (s₀ s' t' r u : State),
    exec .hashInit s₀ = .next (t 0) →
    (∀ k, k < n → (s k).gimli = (t k).gimli ∧ (s k).pos = (t k).pos ∧ (s k).ctx = (t k).ctx ∧
      exec .hashUpdate (s k) = .next (t (k + 1)) ∧ (t (k + 1)).errcode = .ok) →
    s'.gimli = (t n).gimli → s'.pos = (t n).pos → s'.ctx = (t n).ctx →
    exec .hashFinalize s' = .next t' → t'.errcode = .ok →
    exec .hash r = .next u → u.errcode = .ok → r.params = s'.params →
    r.readBytes (r.operand 0) (r.operand 1) =
      (List.range n).flatMap (fun k => (s k).readBytes ((s k).operand 0) ((s k).operand 1)) →
    u.readBytes (r.operand 2) 32 = t'.readBytes (s'.operand 0) 32 ∧
      u.gimli = t'.gimli ∧ u.pos = t'.pos ∧ u.ctx = t'.ctx

/-- The XOF prefix law of R235 (the spec's own inference from R178, R230-R234): from one S, POS and PAD_TERM, the first
m bytes of an XOF of length n ≥ m are the XOF of length m; and HASH_FINALIZE writes the XOF of length 32. -/
def Obligations.XofPrefix : Prop :=
  (∀ s t r u : State, exec .hashFinalizeXof s = .next t → t.errcode = .ok →
    exec .hashFinalizeXof r = .next u → u.errcode = .ok →
    r.gimli = s.gimli → r.pos = s.pos → r.params = s.params → s.operand 1 ≤ r.operand 1 →
    (u.readBytes (r.operand 0) (r.operand 1)).take (s.operand 1) = t.readBytes (s.operand 0) (s.operand 1)) ∧
  (∀ s t r u : State, exec .hashFinalizeXof s = .next t → t.errcode = .ok → s.operand 1 = 32 →
    exec .hashFinalize r = .next u → u.errcode = .ok →
    r.gimli = s.gimli → r.pos = s.pos → r.params = s.params →
    u.readBytes (r.operand 0) 32 = t.readBytes (s.operand 0) 32)

/-- The CTX a command leaves, for every command and every CTX it starts in, and HASH_INIT as the only way into CTX =
HASH. The hash commands' entries are those of R230-R234, the others' those of R35, a rejected command's R263's; the
table of R236 is the spec's own inference from these. -/
def Obligations.CtxTransitions : Prop :=
  ∀ (i : Instr) (s t : State), exec i s = .next t →
    (firstError i s ≠ none → t.ctx = s.ctx) ∧
    (firstError i s = none →
      t.ctx = match i with
        | .stateStore => s.ctx
        | .hashInit | .hashUpdate => Ctx.hash
        | .hashFinalize | .hashFinalizeXof | .hash => Ctx.hashFinal
        | .permute | .stateZero | .stateLoad | .stateXorByte _ _ | .duplexAbsorb | .duplexAbsorbPad _
        | .duplexSqueeze | .aeadEncrypt | .aeadDecrypt => Ctx.none) ∧
    ((i = .hashUpdate ∨ i = .hashFinalize ∨ i = .hashFinalizeXof) → s.ctx ≠ .hash →
      t.errcode = .sequence ∧ t.ctx = s.ctx) ∧
    (t.ctx = .hash → s.ctx ≠ .hash → i = .hashInit)

/-! ### Outcomes, checks and frames (60_exceptions.md) -/

/-- R260: every command ends in exactly one of three outcomes, never in a fault or a refusal. -/
def Obligations.EveryCommandCompletes : Prop :=
  ∀ (i : Instr) (s : State), ∃ t, exec i s = .next t ∧ t.busy = false ∧ t.done = true ∧
    (t.errcode = .ok ∨
      (t = { s with latch := none, done := true, errcode := t.errcode } ∧
        t.errcode ∈ [ErrCode.operand, .sequence, .range, .overlap]) ∨
      (t.errcode = .authFail ∧ i = .aeadDecrypt ∧
        t.readBytes (s.operand 4) (s.operand 5) = List.replicate (s.operand 5) 0#8))

/-- R263: a command rejected by a check, or an illegal word, changes ERRCODE, DONE and BUSY and nothing else, and CMD
reads as the rejected word. ERRCODE is its code: ILLEGAL for an illegal word, else that of the first failing check. -/
def Obligations.RejectionOnlyCompletes : Prop :=
  ∀ (s : State) (l : Latch), s.latch = some l → s.CmdIsLatched → s.mover = .engine →
    ((∃ e, decode l.word = .error e) → ∃ t, step s = .next t ∧
      t = { s.takeTurn with latch := none, done := true, errcode := .illegal } ∧ t.readReg .cmd = l.word) ∧
    (∀ (i : Instr) (e : ErrCode), decode l.word = .ok i → firstError i s = some e →
      e ∈ [ErrCode.operand, .sequence, .range, .overlap] ∧ ∃ t, step s = .next t ∧
        t = { s.takeTurn with latch := none, done := true, errcode := e } ∧ t.readReg .cmd = l.word)

/-- R262: the checks run in the order OPERAND, SEQUENCE, RANGE, OVERLAP, and the first that fails decides the code. -/
def Obligations.ChecksRunInOrder : Prop :=
  ∀ (i : Instr) (s t : State) (operandFails sequenceFails rangeFails overlapFails : Prop),
    (operandFails ↔ ∃ idx v, i = .stateXorByte idx v ∧ 48 ≤ idx.toNat) →
    (sequenceFails ↔ (i = .hashUpdate ∨ i = .hashFinalize ∨ i = .hashFinalizeXof) ∧ s.ctx ≠ .hash) →
    (rangeFails ↔ ∃ g ∈ regions i s, ¬InRange s g.addr g.len) →
    (overlapFails ↔ ¬(regions i s).Pairwise fun g h =>
      (g.access = .r ∧ h.access = .r) ∨ Apart g.addr g.len h.addr h.len) →
    exec i s = .next t →
    (operandFails → t.errcode = .operand) ∧
    (¬operandFails → sequenceFails → t.errcode = .sequence) ∧
    (¬operandFails → ¬sequenceFails → rangeFails → t.errcode = .range) ∧
    (¬operandFails → ¬sequenceFails → ¬rangeFails → overlapFails → t.errcode = .overlap) ∧
    (¬operandFails → ¬sequenceFails → ¬rangeFails → ¬overlapFails →
      t.errcode = .ok ∨ (t.errcode = .authFail ∧ i = .aeadDecrypt))

/-- R268: the pairs of regions for which OVERLAP is raised, command by command, when no region is out of range. -/
def Obligations.OverlapPairs : Prop :=
  (∀ s t : State, exec .aeadEncrypt s = .next t →
    InRange s (s.operand 0) 32 → InRange s (s.operand 1) 16 → InRange s (s.operand 2) (s.operand 3) →
    InRange s (s.operand 4) (s.operand 5) → InRange s (s.operand 6) 16 →
    (t.errcode = .overlap ↔
      ¬(Apart (s.operand 4) (s.operand 5) (s.operand 0) 32 ∧ Apart (s.operand 4) (s.operand 5) (s.operand 1) 16 ∧
        Apart (s.operand 4) (s.operand 5) (s.operand 2) (s.operand 3) ∧
        Apart (s.operand 4) (s.operand 5) (s.operand 6) 16 ∧ Apart (s.operand 6) 16 (s.operand 0) 32 ∧
        Apart (s.operand 6) 16 (s.operand 1) 16 ∧ Apart (s.operand 6) 16 (s.operand 2) (s.operand 3)))) ∧
  (∀ s t : State, exec .aeadDecrypt s = .next t →
    InRange s (s.operand 0) 32 → InRange s (s.operand 1) 16 → InRange s (s.operand 2) (s.operand 3) →
    InRange s (s.operand 4) (s.operand 5) → InRange s (s.operand 6) 16 →
    (t.errcode = .overlap ↔
      ¬(Apart (s.operand 4) (s.operand 5) (s.operand 0) 32 ∧ Apart (s.operand 4) (s.operand 5) (s.operand 1) 16 ∧
        Apart (s.operand 4) (s.operand 5) (s.operand 2) (s.operand 3) ∧
        Apart (s.operand 4) (s.operand 5) (s.operand 6) 16))) ∧
  (∀ s t : State, exec .hash s = .next t →
    InRange s (s.operand 0) (s.operand 1) → InRange s (s.operand 2) 32 →
    (t.errcode = .overlap ↔ ¬Apart (s.operand 0) (s.operand 1) (s.operand 2) 32)) ∧
  (∀ (i : Instr) (s t : State), i ≠ .aeadEncrypt → i ≠ .aeadDecrypt → i ≠ .hash → exec i s = .next t →
    t.errcode ≠ .overlap)

/-- The registers no command writes (R36, R270): A0..A7, CMD, OVR, IE, and, of the model's own, the parameters, the
draws and the host's side. -/
def Obligations.CommandsKeepOtherRegisters : Prop :=
  ∀ (i : Instr) (s t : State), exec i s = .next t →
    t.a = s.a ∧ t.cmd = s.cmd ∧ t.ovr = s.ovr ∧ t.ie = s.ie ∧ t.params = s.params ∧ t.draws = s.draws ∧
      t.program = s.program ∧ t.turns = s.turns ∧ t.replies = s.replies

/-- R68: a command writes no DMEM byte outside the regions it writes; one that writes none leaves DMEM as it is. The
regions of each command are those of R93's table, in its order. -/
def Obligations.CommandsWriteOnlyTheirRegions : Prop :=
  (∀ (i : Instr) (s t : State), exec i s = .next t →
    (∀ a, (∀ g ∈ regions i s, g.access = .r ∨ ¬Inside a g.addr g.len) →
      Memory.read t.dmem a = Memory.read s.dmem a) ∧
    ((∀ g ∈ regions i s, g.access = .r) → t.dmem = s.dmem)) ∧
  (∀ (i : Instr) (s : State), regions i s = match i with
    | .permute | .stateZero | .stateXorByte _ _ | .duplexAbsorbPad _ | .hashInit => []
    | .stateLoad => [{ addr := s.operand 0, len := 48, access := .r }]
    | .stateStore => [{ addr := s.operand 0, len := 48, access := .w }]
    | .duplexAbsorb | .hashUpdate => [{ addr := s.operand 0, len := s.operand 1, access := .r }]
    | .duplexSqueeze | .hashFinalizeXof => [{ addr := s.operand 0, len := s.operand 1, access := .w }]
    | .hashFinalize => [{ addr := s.operand 0, len := 32, access := .w }]
    | .hash => [{ addr := s.operand 0, len := s.operand 1, access := .r },
        { addr := s.operand 2, len := 32, access := .w }]
    | .aeadEncrypt => [{ addr := s.operand 0, len := 32, access := .r },
        { addr := s.operand 1, len := 16, access := .r }, { addr := s.operand 2, len := s.operand 3, access := .r },
        { addr := s.operand 4, len := s.operand 5, access := .rw }, { addr := s.operand 6, len := 16, access := .w }]
    | .aeadDecrypt => [{ addr := s.operand 0, len := 32, access := .r },
        { addr := s.operand 1, len := 16, access := .r }, { addr := s.operand 2, len := s.operand 3, access := .r },
        { addr := s.operand 4, len := s.operand 5, access := .rw }, { addr := s.operand 6, len := 16, access := .r }])

/-- R46: a register write the host makes while a command is in flight does not change what the command does to S, POS,
CTX and DMEM, nor its outcome. -/
def Obligations.LatchIsolatesTheCommand : Prop :=
  ∀ (s t u v : State) (l : Latch) (i : Instr) (off : Nat) (x : Word), s.latch = some l →
    hostOp (.regWrite off 32 x) s = .next t → exec i s = .next u → exec i t = .next v →
    t.latch = some l ∧ v.gimli = u.gimli ∧ v.pos = u.pos ∧ v.ctx = u.ctx ∧ v.dmem = u.dmem ∧ v.errcode = u.errcode

/-! ### Registers, DMEM, interrupt and reset, as the host sees them (10_state.md, 20_memory.md, R271-R274, R300) -/

/-- R272: a CMD write while BUSY = 1 is discarded and sets OVR; and, as the acceptance of R271 has it, one while BUSY =
0 latches the word and the operands, which the command in flight then reads as unsigned numbers (R46, R92), sets BUSY
and clears DONE. A read of CMD gives the last word accepted (R37) and changes nothing of the core (R65). -/
def Obligations.CmdWriteIdleAndBusy : Prop :=
  (∀ (s : State) (v : Word), s.busy = false →
    ∃ t, hostOp (.regWrite 0x00 32 v) s = .next t ∧ t.busy = true ∧
      t = { s with cmd := v, latch := some { word := v, a := s.a }, done := false } ∧
      ∀ i : Fin 8, t.operand i = (s.a.get i).toNat) ∧
  (∀ (s : State) (v : Word), s.busy = true → hostOp (.regWrite 0x00 32 v) s = .next { s with ovr := true }) ∧
  (∀ s : State, hostOp (.regRead 0x00 32) s = .next { s with replies := s.replies ++ [.word s.cmd] })

/-- R273: DONE and OVR are write-1-to-clear, and a STATUS write changes nothing else. -/
def Obligations.StatusWriteClears : Prop :=
  ∀ (s : State) (v : Word), hostOp (.regWrite 0x04 32 v) s = .next { s with
    done := if v.getLsbD 1 then false else s.done, ovr := if v.getLsbD 2 then false else s.ovr }

/-- R38, R43, R44: the STATUS word field by field, with the ERRCODE values of R261 and the CTX values of R35; the read
changes nothing of the core (R65). -/
def Obligations.StatusWordLayout : Prop :=
  (∀ s : State, ∃ w : Word, hostOp (.regRead 0x04 32) s = .next { s with replies := s.replies ++ [.word w] } ∧
    w.getLsbD 0 = s.busy ∧ w.getLsbD 1 = s.done ∧ w.getLsbD 2 = s.ovr ∧ w.getLsbD 3 = false ∧
    w.extractLsb' 4 4 = s.errcode.code ∧ w.extractLsb' 8 2 = s.ctx.code ∧ w.extractLsb' 10 6 = 0#6 ∧
    w.extractLsb' 16 5 = s.pos ∧ w.extractLsb' 21 11 = 0#11) ∧
  (ErrCode.ok.code = 0#4 ∧ ErrCode.illegal.code = 1#4 ∧ ErrCode.operand.code = 2#4 ∧ ErrCode.sequence.code = 3#4 ∧
    ErrCode.range.code = 4#4 ∧ ErrCode.overlap.code = 5#4 ∧ ErrCode.authFail.code = 6#4) ∧
  (Ctx.none.code = 0#2 ∧ Ctx.hash.code = 1#2 ∧ Ctx.hashFinal.code = 2#2)

/-- R36, R45, R64: a write to Ai or CTRL reads back (CTRL its bit 0, reserved bits 0), changes no other register, and a
write to a reserved offset changes nothing. -/
def Obligations.RegisterWritesReadBack : Prop :=
  (∀ (s : State) (i : Fin 8) (v : Word), ∃ t, hostOp (.regWrite (0x20 + 4 * i.val) 32 v) s = .next t ∧
    t = { s with a := t.a } ∧
    hostOp (.regRead (0x20 + 4 * i.val) 32) t = .next { t with replies := t.replies ++ [.word v] } ∧
    ∀ j : Fin 8, j ≠ i → t.a.get j = s.a.get j) ∧
  (∀ (s : State) (v : Word), ∃ t, hostOp (.regWrite 0x08 32 v) s = .next t ∧ t = { s with ie := v.getLsbD 0 } ∧
    hostOp (.regRead 0x08 32) t = .next { t with replies := t.replies ++ [.word (v &&& 1#32)] }) ∧
  (∀ (s : State) (off : Nat) (v : Word), off ∈ [0x0C, 0x10, 0x14, 0x18, 0x1C] →
    hostOp (.regWrite off 32 v) s = .next s ∧
    hostOp (.regRead off 32) s = .next { s with replies := s.replies ++ [.word 0#32] })

/-- R63, R64: exactly the register accesses of another width, at an offset not a multiple of 4, or at 0x40 or above are
refused. -/
def Obligations.RegisterAccessesRefused : Prop :=
  ∀ (s : State) (off width : Nat) (v : Word),
    ((∃ r, hostOp (.regWrite off width v) s = .refused r) ↔ width ≠ 32 ∨ off % 4 ≠ 0 ∨ 0x40 ≤ off) ∧
    ((∃ r, hostOp (.regRead off width) s = .refused r) ↔ width ≠ 32 ∨ off % 4 ≠ 0 ∨ 0x40 ≤ off)

/-- R67, R305: a host DMEM write with BUSY = 0 inside DMEM puts the bytes at addr, addr+1, … in order and leaves every
other byte alone, and a read returns the bytes; a multi-byte value is assembled with its first byte least significant,
and a value written in n bytes comes back; a read gives the byte at each address of its span and changes nothing of the
core; a DMEM access while BUSY = 1, or of a byte at or above DMEM_SIZE, is refused.
Three things are the model's own choice and no rule of the spec (log 12, DESIGN CHOICE): an access of no bytes is done
while BUSY = 0 at any address, it is refused while BUSY = 1, and BUSY is named as the reason before the address. -/
def Obligations.HostDmemAccess : Prop :=
  (∀ (s : State) (addr : Nat) (bs : List Byte), s.busy = false → InRange s addr bs.length →
    ∃ t, hostOp (.memWrite addr bs) s = .next t ∧ t = { s with dmem := t.dmem } ∧
      (∀ i, ∀ hi : i < bs.length, Memory.read t.dmem (addr + i) = bs[i]) ∧
      hostOp (.memRead addr bs.length) t = .next { t with replies := t.replies ++ [.bytes bs] } ∧
      ∀ a, ¬Inside a addr bs.length → Memory.read t.dmem a = Memory.read s.dmem a) ∧
  (∀ (s : State) (addr len : Nat), s.busy = false → InRange s addr len →
    hostOp (.memRead addr len) s =
        .next { s with replies := s.replies ++ [.bytes (Memory.readBytes s.dmem addr len)] } ∧
      (Memory.readBytes s.dmem addr len).length = len ∧
      ∀ i, i < len → (Memory.readBytes s.dmem addr len)[i]? = some (Memory.read s.dmem (addr + i))) ∧
  (leValue [] = 0 ∧ (∀ (b : Byte) (bs : List Byte), leValue (b :: bs) = b.toNat + 256 * leValue bs) ∧
    ∀ n v : Nat, leValue (leBytes n v) = v % 256 ^ n ∧ (leBytes n v).length = n) ∧
  (∀ (s : State) (addr len : Nat), s.busy = true → hostOp (.memRead addr len) s = .refused .dmemWhileBusy) ∧
  (∀ (s : State) (addr : Nat) (bs : List Byte), s.busy = true →
    hostOp (.memWrite addr bs) s = .refused .dmemWhileBusy) ∧
  (∀ (s : State) (addr len : Nat), s.busy = false → ¬InRange s addr len →
    hostOp (.memRead addr len) s = .refused .dmemOutsideMemory) ∧
  (∀ (s : State) (addr : Nat) (bs : List Byte), s.busy = false → ¬InRange s addr bs.length →
    hostOp (.memWrite addr bs) s = .refused .dmemOutsideMemory)

/-- R274: irq is IE and DONE; a completion leaves it at IE, acceptance and clearing DONE lower it; and no other step of
the machine does: what lowers it is a CMD write while idle, a STATUS write with bit 1, a CTRL write without bit 0 or a
reset, and what raises it is the engine's step or a CTRL write with bit 0. -/
def Obligations.InterruptFollowsDone : Prop :=
  (∀ s : State, s.irq = true ↔ s.ie = true ∧ s.done = true) ∧
  (∀ (i : Instr) (s t : State), exec i s = .next t → t.irq = s.ie) ∧
  (∀ (s t : State) (v : Word), s.busy = false → hostOp (.regWrite 0x00 32 v) s = .next t → t.irq = false) ∧
  (∀ (s t : State) (v : Word), v.getLsbD 1 = true → hostOp (.regWrite 0x04 32 v) s = .next t → t.irq = false) ∧
  (∀ s t : State, step s = .next t → s.irq = true → t.irq = false →
    ∃ op rest, s.program = op :: rest ∧ s.mover = .host ∧ (op = .assertReset ∨
      ∃ off v, op = .regWrite off 32 v ∧ ((off = 0x00 ∧ s.busy = false) ∨ (off = 0x04 ∧ v.getLsbD 1 = true) ∨
        (off = 0x08 ∧ v.getLsbD 0 = false)))) ∧
  (∀ s t : State, step s = .next t → s.irq = false → t.irq = true →
    s.mover = .engine ∨ ∃ v rest, s.program = .regWrite 0x08 32 v :: rest ∧ s.mover = .host ∧ v.getLsbD 0 = true)

/-- R300: a reset, at any host step, gives every register its reset value at once. That DMEM keeps its bytes when no
command is pending rests on log 20 (DEDUCED: R86's words are read as power-up), and that the host's program, turns and
replies go on rests on log 16 (DEDUCED); with a command pending, see `ResetAbortsTheCommand`. And the machine right
after power-up has those values. -/
def Obligations.ResetValues : Prop :=
  (∀ s : State, ∃ t, hostOp .assertReset s = .next t ∧
    t = { s with
      gimli := Vector.replicate 12 0#32, pos := 0#5, ctx := .none, a := Vector.replicate 8 0#32, cmd := 0#32,
      latch := none, done := false, ovr := false, errcode := .ok, ie := false, dmem := t.dmem, draws := t.draws } ∧
    statusWord t = 0x00000000#32 ∧ ctrlWord t = 0x00000000#32 ∧ t.irq = false ∧
    (s.busy = false → t.dmem = s.dmem ∧ t.draws = s.draws)) ∧
  State.reset.gimli = Vector.replicate 12 0#32 ∧ State.reset.pos = 0#5 ∧ State.reset.ctx = .none ∧
  State.reset.a = Vector.replicate 8 0#32 ∧ State.reset.cmd = 0#32 ∧ State.reset.latch = none ∧
  statusWord State.reset = 0x00000000#32 ∧ ctrlWord State.reset = 0x00000000#32 ∧ State.reset.irq = false ∧
  State.reset.dmem = []

/-- R301: a reset during a command aborts it: every register takes its reset value, no completion is reported, every
DMEM byte outside the regions the command writes is unchanged, and every byte of them holds a draw. The clauses for a
command that a check would reject and for an illegal word are the model's reading (log 9, DEDUCED): it writes nothing,
so no byte changes and none is drawn. That the host's side goes on is log 16. -/
def Obligations.ResetAbortsTheCommand : Prop :=
  ∀ (s : State) (l : Latch), s.latch = some l →
    ∃ t, hostOp .assertReset s = .next t ∧
      t = { State.reset with
        params := s.params, dmem := t.dmem, draws := t.draws, program := s.program, turns := s.turns,
        replies := s.replies } ∧
      ((∃ e, decode l.word = .error e) → t.dmem = s.dmem ∧ t.draws = s.draws) ∧
      ∀ i : Instr, decode l.word = .ok i →
        (∀ a, (∀ g ∈ regions i s, g.access = .r ∨ ¬Inside a g.addr g.len) →
          Memory.read t.dmem a = Memory.read s.dmem a) ∧
        (firstError i s = none → ∀ g ∈ regions i s, g.access ≠ .r → ∀ a, Inside a g.addr g.len →
          ∃ n, s.draws ≤ n ∧ n < t.draws ∧ Memory.read t.dmem a = Config.abortByte n) ∧
        (firstError i s ≠ none → t.dmem = s.dmem ∧ t.draws = s.draws)

/-! ### Invariants and progress -/

/-- The invariant every step keeps: POS is 0..16 (R34), DMEM is canonical with no byte recorded at or above DMEM_SIZE
(R66), DONE is 0 while BUSY = 1 (R306), and CMD reads as the command in flight (R37, R272). -/
def Obligations.StepKeepsInvariant : Prop :=
  ∀ s t : State, s.Inv → step s = .next t → t.Inv

/-- The machine right after reset meets the invariant. -/
def Obligations.ResetMeetsInvariant : Prop := State.reset.Inv

/-- No step writes the parameters, and no step faults: only a host access the spec refuses ends a run (R260, R314). A
second host is refused always, as R280 says; that its access is one operation, `secondHost`, is the model's choice
(log 17, DESIGN CHOICE). -/
def Obligations.OnlyHostAccessesStopARun : Prop :=
  (∀ s t : State, step s = .next t → t.params = s.params) ∧
  (∀ s : State, s.mover ≠ .host → ∃ t, step s = .next t) ∧
  (∀ (s : State) (r : Refusal), step s = .refused r →
    ∃ op rest, s.program = op :: rest ∧ s.mover = .host ∧
      ((∃ off width v, (op = .regWrite off width v ∨ op = .regRead off width) ∧
          (width ≠ 32 ∨ off % 4 ≠ 0 ∨ 0x40 ≤ off)) ∨
        (∃ addr len bs, (op = .memRead addr len ∨ (op = .memWrite addr bs ∧ bs.length = len)) ∧
          (s.busy = true ∨ ¬InRange s addr len)) ∨
        op = .secondHost)) ∧
  (∀ s : State, hostOp .secondHost s = .refused .secondHost)

/-- R310, R271: a pending command always completes, so every POLL loop ends. A POLL begun while BUSY = 0 ends in one
step: it reads STATUS once and changes nothing of the core. From a state whose host is polling while a command is in
flight, in at most two more steps than there are contested turns left the command has completed and the POLL is done.
The order of turns is the model's own plain data (log 2, DESIGN CHOICE); the statement holds for every one. -/
def Obligations.EveryPollEnds : Prop :=
  (∀ (s : State) (rest : List HostOp), s.busy = false → s.program = .poll :: rest →
    step s = .next { s with program := rest, replies := s.replies ++ [.word (statusWord s)] }) ∧
  (∀ (s : State) (rest : List HostOp), s.busy = true → s.program = .poll :: rest →
    ∃ n t, n ≤ s.turns.length + 2 ∧ s.after n = some t ∧ t.busy = false ∧ t.done = true ∧ t.program = rest)
end

