-- ==== Sys2Proof/Laws/Memory.lean ====
section
/-! SUPPORT. The laws of DMEM: a read after a write, what a write leaves alone, and that every memory operation keeps the
canonical form and stays inside DMEM. -/

namespace Sys2Proof.Machine

variable (m : List Host.Cell)

@[simp] theorem Memory.lookup_write_same (a : Nat) (v : Byte) : Memory.lookup (Memory.write m a v) a = some v := by
  induction m with
  | nil => simp [Memory.write, Memory.lookup]
  | cons c m ih =>
    obtain ⟨k, w⟩ := c
    simp only [Memory.write]
    split
    · simp [Memory.lookup]
    · split
      · simp [Memory.lookup]
      · rename_i h1 h2
        simp [Memory.lookup, Ne.symm h2, ih]

theorem Memory.lookup_write_ne {a b : Nat} (v : Byte) (h : b ≠ a) :
    Memory.lookup (Memory.write m a v) b = Memory.lookup m b := by
  induction m with
  | nil => simp [Memory.write, Memory.lookup, Ne.symm h]
  | cons c m ih =>
    obtain ⟨k, w⟩ := c
    simp only [Memory.write]
    split
    · simp [Memory.lookup, Ne.symm h]
    · split
      · rename_i h2
        subst h2
        simp [Memory.lookup, Ne.symm h]
      · simp [Memory.lookup, ih]

@[simp] theorem Memory.read_write_same (a : Nat) (v : Byte) : Memory.read (Memory.write m a v) a = v := by
  simp [Memory.read]

theorem Memory.read_write_ne {a b : Nat} (v : Byte) (h : b ≠ a) :
    Memory.read (Memory.write m a v) b = Memory.read m b := by
  simp [Memory.read, Memory.lookup_write_ne m v h]

/-- A write leaves every address outside its bytes alone. -/
theorem Memory.read_writeBytes_outside (bs : List Byte) (a b : Nat) (h : b < a ∨ a + bs.length ≤ b) :
    Memory.read (Memory.writeBytes m a bs) b = Memory.read m b := by
  induction bs generalizing m a with
  | nil => rfl
  | cons x bs ih =>
    simp only [List.length_cons] at h
    rw [Memory.writeBytes, ih _ _ (by omega), Memory.read_write_ne _ _ (by omega)]

/-- A write puts byte i of its string at address a + i. -/
theorem Memory.read_writeBytes_inside (bs : List Byte) (a i : Nat) (h : i < bs.length) :
    Memory.read (Memory.writeBytes m a bs) (a + i) = bs[i] := by
  induction bs generalizing m a i with
  | nil => simp at h
  | cons x bs ih =>
    rw [Memory.writeBytes]
    cases i with
    | zero => rw [Memory.read_writeBytes_outside _ _ _ _ (by omega)]; simp
    | succ i =>
      have := ih (Memory.write m a x) (a + 1) i (by simpa using h)
      rw [show a + (i + 1) = a + 1 + i by omega, this]
      simp

@[simp] theorem Memory.length_readBytes (a n : Nat) : (Memory.readBytes m a n).length = n := by
  induction n generalizing a with
  | zero => rfl
  | succ n ih => simp [Memory.readBytes, ih]

theorem Memory.getElem_readBytes (a n i : Nat) (h : i < (Memory.readBytes m a n).length) :
    (Memory.readBytes m a n)[i] = Memory.read m (a + i) := by
  induction n generalizing a i with
  | zero => simp [Memory.readBytes] at h
  | succ n ih =>
    cases i with
    | zero => simp [Memory.readBytes]
    | succ i =>
      simp only [Memory.readBytes, List.getElem_cons_succ]
      rw [ih, show a + 1 + i = a + (i + 1) by omega]

/-- A region read depends only on the bytes inside it. -/
theorem Memory.readBytes_congr {m m' : List Host.Cell} {a n : Nat}
    (h : ∀ i, i < n → Memory.read m (a + i) = Memory.read m' (a + i)) :
    Memory.readBytes m a n = Memory.readBytes m' a n := by
  apply List.ext_getElem
  · simp
  · intro i h1 _
    rw [Memory.getElem_readBytes, Memory.getElem_readBytes]
    exact h i (by simpa using h1)

theorem Memory.readBytes_append (a n k : Nat) :
    Memory.readBytes m a (n + k) = Memory.readBytes m a n ++ Memory.readBytes m (a + n) k := by
  induction n generalizing a with
  | zero => simp [Memory.readBytes]
  | succ n ih =>
    rw [show n + 1 + k = (n + k) + 1 by omega]
    simp only [Memory.readBytes, List.cons_append, ih]
    rw [show a + 1 + n = a + (n + 1) by omega]

/-- What was written reads back. -/
theorem Memory.readBytes_writeBytes_same (bs : List Byte) (a : Nat) :
    Memory.readBytes (Memory.writeBytes m a bs) a bs.length = bs := by
  apply List.ext_getElem
  · simp
  · intro i h1 h2
    rw [Memory.getElem_readBytes, Memory.read_writeBytes_inside _ _ _ _ h2]

/-- A write leaves a region that shares no byte with it alone. -/
theorem Memory.readBytes_writeBytes_disjoint (bs : List Byte) (a b n : Nat)
    (h : bs.length = 0 ∨ n = 0 ∨ a + bs.length ≤ b ∨ b + n ≤ a) :
    Memory.readBytes (Memory.writeBytes m a bs) b n = Memory.readBytes m b n := by
  rcases Nat.eq_zero_or_pos bs.length with h0 | h0
  · rw [List.eq_nil_of_length_eq_zero h0, Memory.writeBytes]
  · apply Memory.readBytes_congr
    intro i hi
    exact Memory.read_writeBytes_outside _ _ _ _ (by omega)

/-! ### The canonical form -/

theorem Memory.mem_write {a : Nat} {v : Byte} {c : Host.Cell} (h : c ∈ Memory.write m a v) : c = (a, v) ∨ c ∈ m := by
  induction m with
  | nil => simpa [Memory.write] using h
  | cons d m ih =>
    obtain ⟨k, w⟩ := d
    simp only [Memory.write] at h
    split at h
    · simpa using h
    · split at h
      · rcases List.mem_cons.1 h with h | h
        · exact .inl h
        · exact .inr (List.mem_cons_of_mem _ h)
      · rcases List.mem_cons.1 h with h | h
        · exact .inr (h ▸ List.mem_cons_self)
        · exact (ih h).imp id (List.mem_cons_of_mem _)

/-- A byte write keeps the canonical form. -/
theorem Memory.write_wf {m : List Host.Cell} (hm : Memory.wf m) (a : Nat) (v : Byte) : Memory.wf (Memory.write m a v) := by
  induction m with
  | nil => simp [Memory.write, Memory.wf]
  | cons c m ih =>
    obtain ⟨k, w⟩ := c
    simp only [Memory.wf, List.map_cons, List.pairwise_cons] at hm ih ⊢
    simp only [Memory.write]
    split
    · rename_i h
      simp only [List.map_cons, List.pairwise_cons, List.mem_cons]
      exact ⟨fun x hx => hx.elim (fun e => e ▸ h) fun hx => Nat.lt_trans h (hm.1 x hx), hm⟩
    · split
      · rename_i h
        subst h
        exact by simpa using hm
      · rename_i h1 h2
        simp only [List.map_cons, List.pairwise_cons, List.mem_map]
        refine ⟨?_, ih hm.2⟩
        rintro x ⟨c, hc, rfl⟩
        rcases Memory.mem_write m hc with rfl | hc
        · simp only; omega
        · exact hm.1 _ (List.mem_map_of_mem hc)

/-- A string write keeps the canonical form. -/
theorem Memory.writeBytes_wf {m : List Host.Cell} (hm : Memory.wf m) (bs : List Byte) (a : Nat) :
    Memory.wf (Memory.writeBytes m a bs) := by
  induction bs generalizing m a with
  | nil => exact hm
  | cons b bs ih => exact ih (Memory.write_wf hm a b) (a + 1)

/-- A byte write below the size stays inside DMEM. -/
theorem Memory.write_inside {m : List Host.Cell} {size a : Nat} (hm : Memory.inside size m) (h : a < size) (v : Byte) :
    Memory.inside size (Memory.write m a v) := by
  intro c hc
  rcases Memory.mem_write m hc with rfl | hc
  · exact h
  · exact hm c hc

/-- A string write to a region in range stays inside DMEM. -/
theorem Memory.writeBytes_inside {m : List Host.Cell} {size a : Nat} (hm : Memory.inside size m) (bs : List Byte)
    (h : bs.length = 0 ∨ a + bs.length ≤ size) : Memory.inside size (Memory.writeBytes m a bs) := by
  induction bs generalizing m a with
  | nil => exact hm
  | cons b bs ih =>
    simp only [List.length_cons] at h
    exact ih (Memory.write_inside hm (by omega) b) (by omega)

/-- Below the first address of a canonical memory nothing is recorded. -/
theorem Memory.lookup_eq_none {m : List Host.Cell} {a : Nat} (h : ∀ c ∈ m, a < c.1) : Memory.lookup m a = none := by
  induction m with
  | nil => rfl
  | cons c m ih =>
    obtain ⟨k, w⟩ := c
    have hk := h (k, w) List.mem_cons_self
    simp only [Memory.lookup]
    rw [if_neg (by simp only at hk; omega)]
    exact ih fun c hc => h c (List.mem_cons_of_mem _ hc)

/-- Canonical memories that record the same bytes are the same data. -/
theorem Memory.ext {m m' : List Host.Cell} (hm : Memory.wf m) (hm' : Memory.wf m')
    (h : ∀ a, Memory.lookup m a = Memory.lookup m' a) : m = m' := by
  induction m generalizing m' with
  | nil =>
    cases m' with
    | nil => rfl
    | cons c t => simpa [Memory.lookup] using h c.1
  | cons c m ih =>
    obtain ⟨k, v⟩ := c
    simp only [Memory.wf, List.map_cons, List.pairwise_cons] at hm
    cases m' with
    | nil => simpa [Memory.lookup] using h k
    | cons c' m' =>
      obtain ⟨k', v'⟩ := c'
      simp only [Memory.wf, List.map_cons, List.pairwise_cons] at hm'
      have low : ∀ {m : List Host.Cell} {k : Nat}, (∀ x ∈ m.map Prod.fst, k < x) → ∀ {a}, a ≤ k → Memory.lookup m a = none :=
        fun hlt _ ha => Memory.lookup_eq_none fun c hc => Nat.lt_of_le_of_lt ha (hlt _ (List.mem_map_of_mem hc))
      have hk : k = k' := by
        rcases Nat.lt_trichotomy k k' with hlt | he | hlt
        · have := h k
          simp [Memory.lookup, Nat.ne_of_gt hlt, low hm'.1 (Nat.le_of_lt hlt)] at this
        · exact he
        · have := h k'
          simp [Memory.lookup, Nat.ne_of_gt hlt, low hm.1 (Nat.le_of_lt hlt)] at this
      subst hk
      have hv : v = v' := by simpa [Memory.lookup] using h k
      subst hv
      congr 1
      refine ih hm.2 hm'.2 fun a => ?_
      by_cases ha : k = a
      · subst ha
        rw [low hm.1 (Nat.le_refl _), low hm'.1 (Nat.le_refl _)]
      · simpa [Memory.lookup, ha] using h a

end Sys2Proof.Machine
end

