-- ==== Sys2Proof/Laws/Views.lean ====
section
/-! SUPPORT. The word and byte views of S alias one storage (10_state.md R30): what each write does to each view. -/

namespace Sys2Proof.Machine

/-! ### Words -/

@[simp] theorem wordAt_setWordAt_same (g : Gimli) {j : Nat} (h : j < 12) (v : Word) : wordAt (setWordAt g j v) j = v := by
  simp [wordAt, setWordAt, h]

theorem wordAt_setWordAt_ne (g : Gimli) {i j : Nat} (h : i ≠ j) (v : Word) : wordAt (setWordAt g i v) j = wordAt g j := by
  simp [wordAt, setWordAt, h]

theorem setWordAt_outside (g : Gimli) {j : Nat} (h : 12 ≤ j) (v : Word) : setWordAt g j v = g := by
  apply Vector.ext
  intro i hi
  simp [setWordAt, show j ≠ i by omega]

theorem wordAt_outside (g : Gimli) {j : Nat} (h : 12 ≤ j) : wordAt g j = 0#32 := by simp [wordAt, h]

/-- Two states with the same 12 words are the same state. -/
theorem gimli_ext {g h : Gimli} (e : ∀ j, j < 12 → wordAt g j = wordAt h j) : g = h := by
  apply Vector.ext
  intro i hi
  simpa [wordAt, hi] using e i hi

@[simp] theorem wordAt_zeroGimli (j : Nat) : wordAt zeroGimli j = 0#32 := by
  simp only [wordAt, zeroGimli, Vector.getElem?_replicate]
  split <;> rfl

/-! ### Bytes of a word -/

theorem getLsbD_byteMask (n : Nat) : (255#32).getLsbD n = decide (n < 8) := by
  by_cases hn : n < 32
  · have : ∀ m : Fin 32, (255#32).getLsbD m.val = decide (m.val < 8) := by decide
    exact this ⟨n, hn⟩
  · rw [BitVec.getLsbD_of_ge _ _ (by omega)]
    symm
    simpa using by omega

@[simp] theorem byteOfWord_insertByte_same (w : Word) {k : Nat} (h : k < 4) (v : Byte) :
    byteOfWord (insertByte w k v) k = v := by
  apply BitVec.eq_of_getLsbD_eq
  intro i hi
  simp only [byteOfWord, insertByte, BitVec.getLsbD_extractLsb', BitVec.getLsbD_or, BitVec.getLsbD_and,
    BitVec.getLsbD_not, BitVec.getLsbD_shiftLeft, BitVec.getLsbD_setWidth, hi, decide_true, Bool.true_and,
    getLsbD_byteMask]
  have h32 : 8 * k + i < 32 := by omega
  have : i < 32 := by omega
  simp [h32, hi, this]

theorem byteOfWord_insertByte_ne (w : Word) {k l : Nat} (hk : k < 4) (hl : l < 4) (h : k ≠ l) (v : Byte) :
    byteOfWord (insertByte w k v) l = byteOfWord w l := by
  apply BitVec.eq_of_getLsbD_eq
  intro i hi
  simp only [byteOfWord, insertByte, BitVec.getLsbD_extractLsb', BitVec.getLsbD_or, BitVec.getLsbD_and,
    BitVec.getLsbD_not, BitVec.getLsbD_shiftLeft, BitVec.getLsbD_setWidth, hi, decide_true, Bool.true_and,
    getLsbD_byteMask]
  rcases Nat.lt_or_gt_of_ne h with h | h
  · have : 8 ≤ 8 * l + i - 8 * k := by omega
    have hv : v.getLsbD (8 * l + i - 8 * k) = false := BitVec.getLsbD_of_ge _ _ this
    have : ¬ (8 * l + i - 8 * k < 8) := by omega
    have h32 : 8 * l + i < 32 := by omega
    simp [hv, this, h32]
  · have : 8 * l + i < 8 * k := by omega
    have h32 : 8 * l + i < 32 := by omega
    simp [this, h32]

/-- Two words with the same four bytes are the same word. -/
theorem word_ext_bytes {v w : Word} (e : ∀ k, k < 4 → byteOfWord v k = byteOfWord w k) : v = w := by
  apply BitVec.eq_of_getLsbD_eq
  intro i hi
  have := congrArg (fun b : Byte => b.getLsbD (i % 8)) (e (i / 8) (by omega))
  simpa [byteOfWord, show i % 8 < 8 by omega, show 8 * (i / 8) + i % 8 = i by omega] using this

theorem byteOfWord_wordOfBytes (b0 b1 b2 b3 : Byte) :
    byteOfWord (wordOfBytes b0 b1 b2 b3) 0 = b0 ∧ byteOfWord (wordOfBytes b0 b1 b2 b3) 1 = b1 ∧
      byteOfWord (wordOfBytes b0 b1 b2 b3) 2 = b2 ∧ byteOfWord (wordOfBytes b0 b1 b2 b3) 3 = b3 := by
  refine ⟨?_, ?_, ?_, ?_⟩ <;>
  · apply BitVec.eq_of_getLsbD_eq
    intro i hi
    simp only [byteOfWord, wordOfBytes, BitVec.getLsbD_extractLsb', BitVec.getLsbD_or, BitVec.getLsbD_shiftLeft,
      BitVec.getLsbD_setWidth, hi, decide_true, Bool.true_and]
    interval_cases i <;> simp

/-! ### Bytes of S -/

@[simp] theorem byteAt_setByteAt_same (g : Gimli) {i : Nat} (h : i < 48) (v : Byte) : byteAt (setByteAt g i v) i = v := by
  simp [byteAt, setByteAt, show i / 4 < 12 by omega, show i % 4 < 4 by omega]

theorem byteAt_setByteAt_ne (g : Gimli) {i j : Nat} (h : i ≠ j) (v : Byte) :
    byteAt (setByteAt g i v) j = byteAt g j := by
  unfold byteAt setByteAt
  by_cases hw : i / 4 = j / 4
  · by_cases hi : i / 4 < 12
    · rw [← hw, wordAt_setWordAt_same _ hi,
        byteOfWord_insertByte_ne _ (by omega) (by omega) (by omega)]
    · rw [setWordAt_outside _ (by omega)]
  · rw [wordAt_setWordAt_ne _ hw]

theorem setByteAt_outside (g : Gimli) {i : Nat} (h : 48 ≤ i) (v : Byte) : setByteAt g i v = g :=
  setWordAt_outside _ (by omega) _

/-- Two states with the same 48 bytes are the same state. -/
theorem gimli_ext_bytes {g h : Gimli} (e : ∀ i, i < 48 → byteAt g i = byteAt h i) : g = h := by
  apply gimli_ext
  intro j hj
  apply word_ext_bytes
  intro k hk
  have := e (4 * j + k) (by omega)
  simpa [byteAt, show (4 * j + k) / 4 = j by omega, show (4 * j + k) % 4 = k by omega] using this

@[simp] theorem byteAt_zeroGimli (i : Nat) : byteAt zeroGimli i = 0#8 := by
  simp [byteAt, byteOfWord]

@[simp] theorem byteAt_xorByteAt_same (g : Gimli) {i : Nat} (h : i < 48) (v : Byte) :
    byteAt (xorByteAt g i v) i = byteAt g i ^^^ v := by
  simp [xorByteAt, h]

theorem byteAt_xorByteAt_ne (g : Gimli) {i j : Nat} (h : i ≠ j) (v : Byte) :
    byteAt (xorByteAt g i v) j = byteAt g j := byteAt_setByteAt_ne g h _

/-- Byte i of the state built from a string is byte i of the string. -/
theorem byteAt_gimliOfBytes (bs : List Byte) {i : Nat} (h : i < 48) : byteAt (gimliOfBytes bs) i = bs.getD i 0#8 := by
  have hw : ∀ j, j < 12 → wordAt (gimliOfBytes bs) j = wordFromBytes bs j := by
    intro j hj
    interval_cases j <;> rfl
  obtain ⟨j, k, hk, rfl⟩ : ∃ j k, k < 4 ∧ i = 4 * j + k := ⟨i / 4, i % 4, by omega, by omega⟩
  rw [byteAt, show (4 * j + k) / 4 = j by omega, show (4 * j + k) % 4 = k by omega, hw j (by omega), wordFromBytes]
  obtain ⟨h0, h1, h2, h3⟩ := byteOfWord_wordOfBytes (bs.getD (4 * j) 0#8) (bs.getD (4 * j + 1) 0#8)
    (bs.getD (4 * j + 2) 0#8) (bs.getD (4 * j + 3) 0#8)
  interval_cases k
  · exact h0
  · exact h1
  · exact h2
  · exact h3

@[simp] theorem length_gimliBytes (g : Gimli) (f n : Nat) : (gimliBytes g f n).length = n := by simp [gimliBytes]

theorem getElem_gimliBytes (g : Gimli) (f n i : Nat) (h : i < (gimliBytes g f n).length) :
    (gimliBytes g f n)[i] = byteAt g (f + i) := by simp [gimliBytes]

/-- The word view of a byte write, through the four bytes (R30). -/
theorem wordAt_eq_wordOfBytes (g : Gimli) (j : Nat) :
    wordAt g j = wordOfBytes (byteAt g (4 * j)) (byteAt g (4 * j + 1)) (byteAt g (4 * j + 2)) (byteAt g (4 * j + 3)) := by
  apply word_ext_bytes
  obtain ⟨h0, h1, h2, h3⟩ := byteOfWord_wordOfBytes (byteAt g (4 * j)) (byteAt g (4 * j + 1)) (byteAt g (4 * j + 2))
    (byteAt g (4 * j + 3))
  intro k hk
  have hb : ∀ k, k < 4 → byteAt g (4 * j + k) = byteOfWord (wordAt g j) k := by
    intro k hk
    rw [byteAt, show (4 * j + k) / 4 = j by omega, show (4 * j + k) % 4 = k by omega]
  interval_cases k
  · rw [h0]; exact (hb 0 (by omega)).symm
  · rw [h1]; exact (hb 1 (by omega)).symm
  · rw [h2]; exact (hb 2 (by omega)).symm
  · rw [h3]; exact (hb 3 (by omega)).symm

end Sys2Proof.Machine
end

