-- ==== Sys2Proof/Laws/Sponge.lean ====
section
/-! SUPPORT. What the duplex helpers and the AEAD message loops can do: where POS goes, how many bytes come out, and
that they may be cut at any byte (41_duplex.md R170-R174, R178; 42_aead.md R203, R204, R206). -/

namespace Sys2Proof.Machine

/-! ### POS -/

theorem ensureRoom_of_lt {d : Sponge} (h : d.pos.toNat < 16) : ensureRoom d = d := by
  rw [ensureRoom, if_neg]
  intro e
  simp [e] at h

theorem ensureRoom_of_full {d : Sponge} (h : d.pos = 16#5) :
    ensureRoom d = { gimli := permute d.gimli, pos := 0#5 } := if_pos h

/-- After ensure_room POS is in 0..15 (R171). -/
theorem ensureRoom_pos {d : Sponge} (h : d.pos.toNat ≤ 16) : (ensureRoom d).pos.toNat ≤ 15 := by
  by_cases e : d.pos = 16#5
  · simp [ensureRoom_of_full e]
  · have : d.pos.toNat ≠ 16 := fun hc => e (BitVec.eq_of_toNat_eq (by simpa using hc))
    rw [ensureRoom, if_neg e]
    omega

theorem toNat_pos_succ {p : BitVec 5} (h : p.toNat ≤ 16) : (p + 1#5).toNat = p.toNat + 1 := by
  rw [BitVec.toNat_add]
  simp only [BitVec.toNat_ofNat]
  omega

/-- The eager step: POS advances, or the block is full and P is applied (R172). -/
theorem advanceEager_of_lt {p : BitVec 5} (g : Gimli) (h : p.toNat < 15) :
    advanceEager g p = { gimli := g, pos := p + 1#5 } := by
  rw [advanceEager, if_neg]
  intro e
  have := congrArg BitVec.toNat e
  rw [toNat_pos_succ (by omega)] at this
  simp at this
  omega

theorem advanceEager_of_last {p : BitVec 5} (g : Gimli) (h : p.toNat = 15) :
    advanceEager g p = { gimli := permute g, pos := 0#5 } := by
  rw [advanceEager, if_pos]
  apply BitVec.eq_of_toNat_eq
  rw [toNat_pos_succ (by omega), h]
  rfl

theorem advanceEager_pos {p : BitVec 5} (g : Gimli) (h : p.toNat ≤ 15) : (advanceEager g p).pos.toNat ≤ 15 := by
  rcases Nat.lt_or_ge p.toNat 15 with h' | h'
  · rw [advanceEager_of_lt g h']
    simp only [toNat_pos_succ (show p.toNat ≤ 16 by omega)]
    omega
  · rw [advanceEager_of_last g (by omega)]
    simp

/-- After any absorb step POS is in 0..15 (R170). -/
theorem absorbByte_pos {d : Sponge} (h : d.pos.toNat ≤ 16) (v : Byte) : (absorbByte d v).pos.toNat ≤ 15 :=
  advanceEager_pos _ (ensureRoom_pos h)

theorem absorb_pos {d : Sponge} (h : d.pos.toNat ≤ 16) (bs : List Byte) : (absorb d bs).pos.toNat ≤ 16 := by
  induction bs generalizing d with
  | nil => exact h
  | cons b bs ih => exact ih (d := absorbByte d b) (Nat.le_succ_of_le (absorbByte_pos h b))

theorem absorb_pos_lt {d : Sponge} (h : d.pos.toNat ≤ 15) (bs : List Byte) : (absorb d bs).pos.toNat ≤ 15 := by
  induction bs generalizing d with
  | nil => exact h
  | cons b bs ih => exact ih (d := absorbByte d b) (absorbByte_pos (by omega) b)

@[simp] theorem absorbPad_pos (t : Byte) (d : Sponge) (v : Byte) : (absorbPad t d v).pos = 0#5 := rfl

@[simp] theorem aeadInit_pos (k n : List Byte) : (aeadInit k n).pos = 0#5 := rfl

@[simp] theorem aeadAad_pos (t : Byte) (d : Sponge) (bs : List Byte) : (aeadAad t d bs).pos = 0#5 := rfl

theorem squeezeByte_pos {d : Sponge} (h : d.pos.toNat ≤ 16) : (squeezeByte d).2.pos.toNat ≤ 16 := by
  have := ensureRoom_pos h
  show ((ensureRoom d).pos + 1#5).toNat ≤ 16
  rw [toNat_pos_succ (by omega)]
  omega

theorem squeeze_pos {d : Sponge} (h : d.pos.toNat ≤ 16) (n : Nat) : (squeeze n d).2.pos.toNat ≤ 16 := by
  induction n generalizing d with
  | zero => exact h
  | succ n ih => exact ih (squeezeByte_pos h)

theorem encryptBytes_pos {d : Sponge} (h : d.pos.toNat ≤ 15) (ps : List Byte) :
    (encryptBytes d ps).2.pos.toNat ≤ 15 := by
  induction ps generalizing d with
  | nil => exact h
  | cons p ps ih => exact ih (advanceEager_pos _ h)

/-! ### Lengths -/

@[simp] theorem squeeze_length (n : Nat) (d : Sponge) : (squeeze n d).1.length = n := by
  induction n generalizing d with
  | zero => rfl
  | succ n ih => simp [squeeze, ih]

@[simp] theorem encryptBytes_length (d : Sponge) (ps : List Byte) : (encryptBytes d ps).1.length = ps.length := by
  induction ps generalizing d with
  | nil => rfl
  | cons p ps ih => simp [encryptBytes, ih]

@[simp] theorem decryptBytes_length (d : Sponge) (cs : List Byte) : (decryptBytes d cs).1.length = cs.length := by
  induction cs generalizing d with
  | nil => rfl
  | cons c cs ih => simp [decryptBytes, ih]

/-! ### Cutting a phase at any byte -/

theorem absorb_append (d : Sponge) (u v : List Byte) : absorb d (u ++ v) = absorb (absorb d u) v := List.foldl_append

theorem squeeze_add (a b : Nat) (d : Sponge) :
    squeeze (a + b) d =
      ((squeeze a d).1 ++ (squeeze b (squeeze a d).2).1, (squeeze b (squeeze a d).2).2) := by
  induction a generalizing d with
  | zero => simp [squeeze]
  | succ a ih =>
    rw [show a + 1 + b = (a + b) + 1 by omega]
    simp [squeeze, ih]

/-- A squeezed byte never depends on how many bytes follow it. -/
theorem squeeze_take {m n : Nat} (h : m ≤ n) (d : Sponge) : (squeeze n d).1.take m = (squeeze m d).1 := by
  obtain ⟨k, rfl⟩ := Nat.exists_eq_add_of_le h
  rw [squeeze_add]
  simp

/-- Writing into a rate byte and reading it back (R203, R204): the ciphertext byte is the state byte. -/
theorem setByteAt_xorByteAt_self (g : Gimli) (i : Nat) (v : Byte) :
    setByteAt g i (byteAt (xorByteAt g i v) i) = xorByteAt g i v := by
  by_cases h : i < 48
  · rw [byteAt_xorByteAt_same g h]
    rfl
  · rw [setByteAt_outside _ (by omega), xorByteAt, setByteAt_outside _ (by omega)]

/-- Decrypting the ciphertext gives back the plaintext and drives S and POS through the same values (R204, R211). -/
theorem decryptBytes_encryptBytes {d : Sponge} (h : d.pos.toNat ≤ 15) (ps : List Byte) :
    decryptBytes d (encryptBytes d ps).1 = (ps, (encryptBytes d ps).2) := by
  induction ps generalizing d with
  | nil => rfl
  | cons p ps ih =>
    have hs : decryptByte d (encryptByte d p).1 = (p, (encryptByte d p).2) := by
      have hx : byteAt (xorByteAt d.gimli d.pos.toNat p) d.pos.toNat = byteAt d.gimli d.pos.toNat ^^^ p :=
        byteAt_xorByteAt_same _ (by omega) _
      have hp : byteAt d.gimli d.pos.toNat ^^^ (byteAt d.gimli d.pos.toNat ^^^ p) = p := by
        rw [← BitVec.xor_assoc, BitVec.xor_self, BitVec.zero_xor]
      simp only [decryptByte, encryptByte, setByteAt_xorByteAt_self]
      rw [hx, hp]
    have ht := ih (d := (encryptByte d p).2) (advanceEager_pos _ h)
    simp only [encryptBytes, decryptBytes, hs, ht]

/-! ### The tag comparison -/

theorem foldl_or_eq_zero (bs : List Byte) (x : Byte) :
    bs.foldl (· ||| ·) x = 0#8 ↔ x = 0#8 ∧ ∀ b ∈ bs, b = 0#8 := by
  induction bs generalizing x with
  | nil => simp
  | cons b bs ih =>
    simp only [List.foldl_cons, ih, List.mem_cons, forall_eq_or_imp, BitVec.or_eq_zero_iff]
    tauto

/-- The comparison answers equality of the two tags (R206). -/
theorem tagEqual_iff {t u : List Byte} (h : t.length = u.length) : tagEqual t u = true ↔ t = u := by
  simp only [tagEqual, beq_iff_eq, foldl_or_eq_zero, true_and]
  induction t generalizing u with
  | nil =>
    cases u with
    | nil => simp
    | cons _ _ => simp at h
  | cons a t ih =>
    cases u with
    | nil => simp at h
    | cons b u =>
      simp only [List.length_cons, Nat.add_right_cancel_iff] at h
      simp only [List.zipWith_cons_cons, List.mem_cons, forall_eq_or_imp, BitVec.xor_eq_zero_iff, ih h, List.cons.injEq]

end Sys2Proof.Machine
end

