-- ==== Sys2Proof/Laws/State.lean ====
section
/-! SUPPORT. What each update of the state does to each field, one lemma per field and update, true by unfolding.
They rewrite (`by rfl`, so `dsimp` does not use them): the kernel then compares terms as written, and never runs 16, 32
or 48 squeeze or store steps of a literal length to see that a field is what it is. -/

namespace Sys2Proof.Machine

variable (s : State)

@[simp] theorem State.setSponge_params (d : Sponge) : (s.setSponge d).params = s.params := by rfl
@[simp] theorem State.setSponge_gimli (d : Sponge) : (s.setSponge d).gimli = d.gimli := by rfl
@[simp] theorem State.setSponge_pos (d : Sponge) : (s.setSponge d).pos = d.pos := by rfl
@[simp] theorem State.setSponge_ctx (d : Sponge) : (s.setSponge d).ctx = s.ctx := by rfl
@[simp] theorem State.setSponge_a (d : Sponge) : (s.setSponge d).a = s.a := by rfl
@[simp] theorem State.setSponge_cmd (d : Sponge) : (s.setSponge d).cmd = s.cmd := by rfl
@[simp] theorem State.setSponge_latch (d : Sponge) : (s.setSponge d).latch = s.latch := by rfl
@[simp] theorem State.setSponge_done (d : Sponge) : (s.setSponge d).done = s.done := by rfl
@[simp] theorem State.setSponge_ovr (d : Sponge) : (s.setSponge d).ovr = s.ovr := by rfl
@[simp] theorem State.setSponge_errcode (d : Sponge) : (s.setSponge d).errcode = s.errcode := by rfl
@[simp] theorem State.setSponge_ie (d : Sponge) : (s.setSponge d).ie = s.ie := by rfl
@[simp] theorem State.setSponge_dmem (d : Sponge) : (s.setSponge d).dmem = s.dmem := by rfl
@[simp] theorem State.setSponge_draws (d : Sponge) : (s.setSponge d).draws = s.draws := by rfl
@[simp] theorem State.setSponge_program (d : Sponge) : (s.setSponge d).program = s.program := by rfl
@[simp] theorem State.setSponge_turns (d : Sponge) : (s.setSponge d).turns = s.turns := by rfl
@[simp] theorem State.setSponge_replies (d : Sponge) : (s.setSponge d).replies = s.replies := by rfl

@[simp] theorem State.setGimli_params (g : Gimli) : (s.setGimli g).params = s.params := by rfl
@[simp] theorem State.setGimli_gimli (g : Gimli) : (s.setGimli g).gimli = g := by rfl
@[simp] theorem State.setGimli_pos (g : Gimli) : (s.setGimli g).pos = s.pos := by rfl
@[simp] theorem State.setGimli_ctx (g : Gimli) : (s.setGimli g).ctx = s.ctx := by rfl
@[simp] theorem State.setGimli_a (g : Gimli) : (s.setGimli g).a = s.a := by rfl
@[simp] theorem State.setGimli_cmd (g : Gimli) : (s.setGimli g).cmd = s.cmd := by rfl
@[simp] theorem State.setGimli_latch (g : Gimli) : (s.setGimli g).latch = s.latch := by rfl
@[simp] theorem State.setGimli_done (g : Gimli) : (s.setGimli g).done = s.done := by rfl
@[simp] theorem State.setGimli_ovr (g : Gimli) : (s.setGimli g).ovr = s.ovr := by rfl
@[simp] theorem State.setGimli_errcode (g : Gimli) : (s.setGimli g).errcode = s.errcode := by rfl
@[simp] theorem State.setGimli_ie (g : Gimli) : (s.setGimli g).ie = s.ie := by rfl
@[simp] theorem State.setGimli_dmem (g : Gimli) : (s.setGimli g).dmem = s.dmem := by rfl
@[simp] theorem State.setGimli_draws (g : Gimli) : (s.setGimli g).draws = s.draws := by rfl
@[simp] theorem State.setGimli_program (g : Gimli) : (s.setGimli g).program = s.program := by rfl
@[simp] theorem State.setGimli_turns (g : Gimli) : (s.setGimli g).turns = s.turns := by rfl
@[simp] theorem State.setGimli_replies (g : Gimli) : (s.setGimli g).replies = s.replies := by rfl

@[simp] theorem State.setCtx_params (c : Ctx) : (s.setCtx c).params = s.params := by rfl
@[simp] theorem State.setCtx_gimli (c : Ctx) : (s.setCtx c).gimli = s.gimli := by rfl
@[simp] theorem State.setCtx_pos (c : Ctx) : (s.setCtx c).pos = s.pos := by rfl
@[simp] theorem State.setCtx_ctx (c : Ctx) : (s.setCtx c).ctx = c := by rfl
@[simp] theorem State.setCtx_a (c : Ctx) : (s.setCtx c).a = s.a := by rfl
@[simp] theorem State.setCtx_cmd (c : Ctx) : (s.setCtx c).cmd = s.cmd := by rfl
@[simp] theorem State.setCtx_latch (c : Ctx) : (s.setCtx c).latch = s.latch := by rfl
@[simp] theorem State.setCtx_done (c : Ctx) : (s.setCtx c).done = s.done := by rfl
@[simp] theorem State.setCtx_ovr (c : Ctx) : (s.setCtx c).ovr = s.ovr := by rfl
@[simp] theorem State.setCtx_errcode (c : Ctx) : (s.setCtx c).errcode = s.errcode := by rfl
@[simp] theorem State.setCtx_ie (c : Ctx) : (s.setCtx c).ie = s.ie := by rfl
@[simp] theorem State.setCtx_dmem (c : Ctx) : (s.setCtx c).dmem = s.dmem := by rfl
@[simp] theorem State.setCtx_draws (c : Ctx) : (s.setCtx c).draws = s.draws := by rfl
@[simp] theorem State.setCtx_program (c : Ctx) : (s.setCtx c).program = s.program := by rfl
@[simp] theorem State.setCtx_turns (c : Ctx) : (s.setCtx c).turns = s.turns := by rfl
@[simp] theorem State.setCtx_replies (c : Ctx) : (s.setCtx c).replies = s.replies := by rfl

@[simp] theorem State.writeBytes_params (x : Nat) (bs : List Byte) : (s.writeBytes x bs).params = s.params := by rfl
@[simp] theorem State.writeBytes_gimli (x : Nat) (bs : List Byte) : (s.writeBytes x bs).gimli = s.gimli := by rfl
@[simp] theorem State.writeBytes_pos (x : Nat) (bs : List Byte) : (s.writeBytes x bs).pos = s.pos := by rfl
@[simp] theorem State.writeBytes_ctx (x : Nat) (bs : List Byte) : (s.writeBytes x bs).ctx = s.ctx := by rfl
@[simp] theorem State.writeBytes_a (x : Nat) (bs : List Byte) : (s.writeBytes x bs).a = s.a := by rfl
@[simp] theorem State.writeBytes_cmd (x : Nat) (bs : List Byte) : (s.writeBytes x bs).cmd = s.cmd := by rfl
@[simp] theorem State.writeBytes_latch (x : Nat) (bs : List Byte) : (s.writeBytes x bs).latch = s.latch := by rfl
@[simp] theorem State.writeBytes_done (x : Nat) (bs : List Byte) : (s.writeBytes x bs).done = s.done := by rfl
@[simp] theorem State.writeBytes_ovr (x : Nat) (bs : List Byte) : (s.writeBytes x bs).ovr = s.ovr := by rfl
@[simp] theorem State.writeBytes_errcode (x : Nat) (bs : List Byte) : (s.writeBytes x bs).errcode = s.errcode := by rfl
@[simp] theorem State.writeBytes_ie (x : Nat) (bs : List Byte) : (s.writeBytes x bs).ie = s.ie := by rfl
@[simp] theorem State.writeBytes_dmem (x : Nat) (bs : List Byte) : (s.writeBytes x bs).dmem = Memory.writeBytes s.dmem x bs := by rfl
@[simp] theorem State.writeBytes_draws (x : Nat) (bs : List Byte) : (s.writeBytes x bs).draws = s.draws := by rfl
@[simp] theorem State.writeBytes_program (x : Nat) (bs : List Byte) : (s.writeBytes x bs).program = s.program := by rfl
@[simp] theorem State.writeBytes_turns (x : Nat) (bs : List Byte) : (s.writeBytes x bs).turns = s.turns := by rfl
@[simp] theorem State.writeBytes_replies (x : Nat) (bs : List Byte) : (s.writeBytes x bs).replies = s.replies := by rfl

@[simp] theorem State.accept_params (v : Word) : (s.accept v).params = s.params := by rfl
@[simp] theorem State.accept_gimli (v : Word) : (s.accept v).gimli = s.gimli := by rfl
@[simp] theorem State.accept_pos (v : Word) : (s.accept v).pos = s.pos := by rfl
@[simp] theorem State.accept_ctx (v : Word) : (s.accept v).ctx = s.ctx := by rfl
@[simp] theorem State.accept_a (v : Word) : (s.accept v).a = s.a := by rfl
@[simp] theorem State.accept_cmd (v : Word) : (s.accept v).cmd = v := by rfl
@[simp] theorem State.accept_latch (v : Word) : (s.accept v).latch = some { word := v, a := s.a } := by rfl
@[simp] theorem State.accept_done (v : Word) : (s.accept v).done = false := by rfl
@[simp] theorem State.accept_ovr (v : Word) : (s.accept v).ovr = s.ovr := by rfl
@[simp] theorem State.accept_errcode (v : Word) : (s.accept v).errcode = s.errcode := by rfl
@[simp] theorem State.accept_ie (v : Word) : (s.accept v).ie = s.ie := by rfl
@[simp] theorem State.accept_dmem (v : Word) : (s.accept v).dmem = s.dmem := by rfl
@[simp] theorem State.accept_draws (v : Word) : (s.accept v).draws = s.draws := by rfl
@[simp] theorem State.accept_program (v : Word) : (s.accept v).program = s.program := by rfl
@[simp] theorem State.accept_turns (v : Word) : (s.accept v).turns = s.turns := by rfl
@[simp] theorem State.accept_replies (v : Word) : (s.accept v).replies = s.replies := by rfl

@[simp] theorem State.complete_params (e : ErrCode) : (s.complete e).params = s.params := by rfl
@[simp] theorem State.complete_gimli (e : ErrCode) : (s.complete e).gimli = s.gimli := by rfl
@[simp] theorem State.complete_pos (e : ErrCode) : (s.complete e).pos = s.pos := by rfl
@[simp] theorem State.complete_ctx (e : ErrCode) : (s.complete e).ctx = s.ctx := by rfl
@[simp] theorem State.complete_a (e : ErrCode) : (s.complete e).a = s.a := by rfl
@[simp] theorem State.complete_cmd (e : ErrCode) : (s.complete e).cmd = s.cmd := by rfl
@[simp] theorem State.complete_latch (e : ErrCode) : (s.complete e).latch = none := by rfl
@[simp] theorem State.complete_done (e : ErrCode) : (s.complete e).done = true := by rfl
@[simp] theorem State.complete_ovr (e : ErrCode) : (s.complete e).ovr = s.ovr := by rfl
@[simp] theorem State.complete_errcode (e : ErrCode) : (s.complete e).errcode = e := by rfl
@[simp] theorem State.complete_ie (e : ErrCode) : (s.complete e).ie = s.ie := by rfl
@[simp] theorem State.complete_dmem (e : ErrCode) : (s.complete e).dmem = s.dmem := by rfl
@[simp] theorem State.complete_draws (e : ErrCode) : (s.complete e).draws = s.draws := by rfl
@[simp] theorem State.complete_program (e : ErrCode) : (s.complete e).program = s.program := by rfl
@[simp] theorem State.complete_turns (e : ErrCode) : (s.complete e).turns = s.turns := by rfl
@[simp] theorem State.complete_replies (e : ErrCode) : (s.complete e).replies = s.replies := by rfl

@[simp] theorem State.scrub_params : (s.scrub).params = s.params := by rfl
@[simp] theorem State.scrub_gimli : (s.scrub).gimli = zeroGimli := by rfl
@[simp] theorem State.scrub_pos : (s.scrub).pos = 0#5 := by rfl
@[simp] theorem State.scrub_ctx : (s.scrub).ctx = Ctx.none := by rfl
@[simp] theorem State.scrub_a : (s.scrub).a = s.a := by rfl
@[simp] theorem State.scrub_cmd : (s.scrub).cmd = s.cmd := by rfl
@[simp] theorem State.scrub_latch : (s.scrub).latch = s.latch := by rfl
@[simp] theorem State.scrub_done : (s.scrub).done = s.done := by rfl
@[simp] theorem State.scrub_ovr : (s.scrub).ovr = s.ovr := by rfl
@[simp] theorem State.scrub_errcode : (s.scrub).errcode = s.errcode := by rfl
@[simp] theorem State.scrub_ie : (s.scrub).ie = s.ie := by rfl
@[simp] theorem State.scrub_dmem : (s.scrub).dmem = s.dmem := by rfl
@[simp] theorem State.scrub_draws : (s.scrub).draws = s.draws := by rfl
@[simp] theorem State.scrub_program : (s.scrub).program = s.program := by rfl
@[simp] theorem State.scrub_turns : (s.scrub).turns = s.turns := by rfl
@[simp] theorem State.scrub_replies : (s.scrub).replies = s.replies := by rfl

@[simp] theorem State.clearStatus_params (v : Word) : (s.clearStatus v).params = s.params := by rfl
@[simp] theorem State.clearStatus_gimli (v : Word) : (s.clearStatus v).gimli = s.gimli := by rfl
@[simp] theorem State.clearStatus_pos (v : Word) : (s.clearStatus v).pos = s.pos := by rfl
@[simp] theorem State.clearStatus_ctx (v : Word) : (s.clearStatus v).ctx = s.ctx := by rfl
@[simp] theorem State.clearStatus_a (v : Word) : (s.clearStatus v).a = s.a := by rfl
@[simp] theorem State.clearStatus_cmd (v : Word) : (s.clearStatus v).cmd = s.cmd := by rfl
@[simp] theorem State.clearStatus_latch (v : Word) : (s.clearStatus v).latch = s.latch := by rfl
@[simp] theorem State.clearStatus_done (v : Word) : (s.clearStatus v).done = (s.done && !v.getLsbD 1) := by rfl
@[simp] theorem State.clearStatus_ovr (v : Word) : (s.clearStatus v).ovr = (s.ovr && !v.getLsbD 2) := by rfl
@[simp] theorem State.clearStatus_errcode (v : Word) : (s.clearStatus v).errcode = s.errcode := by rfl
@[simp] theorem State.clearStatus_ie (v : Word) : (s.clearStatus v).ie = s.ie := by rfl
@[simp] theorem State.clearStatus_dmem (v : Word) : (s.clearStatus v).dmem = s.dmem := by rfl
@[simp] theorem State.clearStatus_draws (v : Word) : (s.clearStatus v).draws = s.draws := by rfl
@[simp] theorem State.clearStatus_program (v : Word) : (s.clearStatus v).program = s.program := by rfl
@[simp] theorem State.clearStatus_turns (v : Word) : (s.clearStatus v).turns = s.turns := by rfl
@[simp] theorem State.clearStatus_replies (v : Word) : (s.clearStatus v).replies = s.replies := by rfl

@[simp] theorem State.setCtrl_params (v : Word) : (s.setCtrl v).params = s.params := by rfl
@[simp] theorem State.setCtrl_gimli (v : Word) : (s.setCtrl v).gimli = s.gimli := by rfl
@[simp] theorem State.setCtrl_pos (v : Word) : (s.setCtrl v).pos = s.pos := by rfl
@[simp] theorem State.setCtrl_ctx (v : Word) : (s.setCtrl v).ctx = s.ctx := by rfl
@[simp] theorem State.setCtrl_a (v : Word) : (s.setCtrl v).a = s.a := by rfl
@[simp] theorem State.setCtrl_cmd (v : Word) : (s.setCtrl v).cmd = s.cmd := by rfl
@[simp] theorem State.setCtrl_latch (v : Word) : (s.setCtrl v).latch = s.latch := by rfl
@[simp] theorem State.setCtrl_done (v : Word) : (s.setCtrl v).done = s.done := by rfl
@[simp] theorem State.setCtrl_ovr (v : Word) : (s.setCtrl v).ovr = s.ovr := by rfl
@[simp] theorem State.setCtrl_errcode (v : Word) : (s.setCtrl v).errcode = s.errcode := by rfl
@[simp] theorem State.setCtrl_ie (v : Word) : (s.setCtrl v).ie = v.getLsbD 0 := by rfl
@[simp] theorem State.setCtrl_dmem (v : Word) : (s.setCtrl v).dmem = s.dmem := by rfl
@[simp] theorem State.setCtrl_draws (v : Word) : (s.setCtrl v).draws = s.draws := by rfl
@[simp] theorem State.setCtrl_program (v : Word) : (s.setCtrl v).program = s.program := by rfl
@[simp] theorem State.setCtrl_turns (v : Word) : (s.setCtrl v).turns = s.turns := by rfl
@[simp] theorem State.setCtrl_replies (v : Word) : (s.setCtrl v).replies = s.replies := by rfl

@[simp] theorem State.writeOperand_params (i : Fin 8) (v : Word) : (s.writeOperand i v).params = s.params := by rfl
@[simp] theorem State.writeOperand_gimli (i : Fin 8) (v : Word) : (s.writeOperand i v).gimli = s.gimli := by rfl
@[simp] theorem State.writeOperand_pos (i : Fin 8) (v : Word) : (s.writeOperand i v).pos = s.pos := by rfl
@[simp] theorem State.writeOperand_ctx (i : Fin 8) (v : Word) : (s.writeOperand i v).ctx = s.ctx := by rfl
@[simp] theorem State.writeOperand_a (i : Fin 8) (v : Word) : (s.writeOperand i v).a = s.a.set i v := by rfl
@[simp] theorem State.writeOperand_cmd (i : Fin 8) (v : Word) : (s.writeOperand i v).cmd = s.cmd := by rfl
@[simp] theorem State.writeOperand_latch (i : Fin 8) (v : Word) : (s.writeOperand i v).latch = s.latch := by rfl
@[simp] theorem State.writeOperand_done (i : Fin 8) (v : Word) : (s.writeOperand i v).done = s.done := by rfl
@[simp] theorem State.writeOperand_ovr (i : Fin 8) (v : Word) : (s.writeOperand i v).ovr = s.ovr := by rfl
@[simp] theorem State.writeOperand_errcode (i : Fin 8) (v : Word) : (s.writeOperand i v).errcode = s.errcode := by rfl
@[simp] theorem State.writeOperand_ie (i : Fin 8) (v : Word) : (s.writeOperand i v).ie = s.ie := by rfl
@[simp] theorem State.writeOperand_dmem (i : Fin 8) (v : Word) : (s.writeOperand i v).dmem = s.dmem := by rfl
@[simp] theorem State.writeOperand_draws (i : Fin 8) (v : Word) : (s.writeOperand i v).draws = s.draws := by rfl
@[simp] theorem State.writeOperand_program (i : Fin 8) (v : Word) : (s.writeOperand i v).program = s.program := by rfl
@[simp] theorem State.writeOperand_turns (i : Fin 8) (v : Word) : (s.writeOperand i v).turns = s.turns := by rfl
@[simp] theorem State.writeOperand_replies (i : Fin 8) (v : Word) : (s.writeOperand i v).replies = s.replies := by rfl

@[simp] theorem State.reply_params (r : Reply) : (s.reply r).params = s.params := by rfl
@[simp] theorem State.reply_gimli (r : Reply) : (s.reply r).gimli = s.gimli := by rfl
@[simp] theorem State.reply_pos (r : Reply) : (s.reply r).pos = s.pos := by rfl
@[simp] theorem State.reply_ctx (r : Reply) : (s.reply r).ctx = s.ctx := by rfl
@[simp] theorem State.reply_a (r : Reply) : (s.reply r).a = s.a := by rfl
@[simp] theorem State.reply_cmd (r : Reply) : (s.reply r).cmd = s.cmd := by rfl
@[simp] theorem State.reply_latch (r : Reply) : (s.reply r).latch = s.latch := by rfl
@[simp] theorem State.reply_done (r : Reply) : (s.reply r).done = s.done := by rfl
@[simp] theorem State.reply_ovr (r : Reply) : (s.reply r).ovr = s.ovr := by rfl
@[simp] theorem State.reply_errcode (r : Reply) : (s.reply r).errcode = s.errcode := by rfl
@[simp] theorem State.reply_ie (r : Reply) : (s.reply r).ie = s.ie := by rfl
@[simp] theorem State.reply_dmem (r : Reply) : (s.reply r).dmem = s.dmem := by rfl
@[simp] theorem State.reply_draws (r : Reply) : (s.reply r).draws = s.draws := by rfl
@[simp] theorem State.reply_program (r : Reply) : (s.reply r).program = s.program := by rfl
@[simp] theorem State.reply_turns (r : Reply) : (s.reply r).turns = s.turns := by rfl
@[simp] theorem State.reply_replies (r : Reply) : (s.reply r).replies = s.replies ++ [r] := by rfl

@[simp] theorem State.drawByte_params (x : Nat) : (s.drawByte x).params = s.params := by rfl
@[simp] theorem State.drawByte_gimli (x : Nat) : (s.drawByte x).gimli = s.gimli := by rfl
@[simp] theorem State.drawByte_pos (x : Nat) : (s.drawByte x).pos = s.pos := by rfl
@[simp] theorem State.drawByte_ctx (x : Nat) : (s.drawByte x).ctx = s.ctx := by rfl
@[simp] theorem State.drawByte_a (x : Nat) : (s.drawByte x).a = s.a := by rfl
@[simp] theorem State.drawByte_cmd (x : Nat) : (s.drawByte x).cmd = s.cmd := by rfl
@[simp] theorem State.drawByte_latch (x : Nat) : (s.drawByte x).latch = s.latch := by rfl
@[simp] theorem State.drawByte_done (x : Nat) : (s.drawByte x).done = s.done := by rfl
@[simp] theorem State.drawByte_ovr (x : Nat) : (s.drawByte x).ovr = s.ovr := by rfl
@[simp] theorem State.drawByte_errcode (x : Nat) : (s.drawByte x).errcode = s.errcode := by rfl
@[simp] theorem State.drawByte_ie (x : Nat) : (s.drawByte x).ie = s.ie := by rfl
@[simp] theorem State.drawByte_dmem (x : Nat) : (s.drawByte x).dmem = Memory.write s.dmem x (Config.abortByte s.draws) := by rfl
@[simp] theorem State.drawByte_draws (x : Nat) : (s.drawByte x).draws = s.draws + 1 := by rfl
@[simp] theorem State.drawByte_program (x : Nat) : (s.drawByte x).program = s.program := by rfl
@[simp] theorem State.drawByte_turns (x : Nat) : (s.drawByte x).turns = s.turns := by rfl
@[simp] theorem State.drawByte_replies (x : Nat) : (s.drawByte x).replies = s.replies := by rfl

@[simp] theorem State.clearRegisters_params : (s.clearRegisters).params = s.params := by rfl
@[simp] theorem State.clearRegisters_gimli : (s.clearRegisters).gimli = zeroGimli := by rfl
@[simp] theorem State.clearRegisters_pos : (s.clearRegisters).pos = 0#5 := by rfl
@[simp] theorem State.clearRegisters_ctx : (s.clearRegisters).ctx = Ctx.none := by rfl
@[simp] theorem State.clearRegisters_a : (s.clearRegisters).a = Vector.replicate 8 0#32 := by rfl
@[simp] theorem State.clearRegisters_cmd : (s.clearRegisters).cmd = 0#32 := by rfl
@[simp] theorem State.clearRegisters_latch : (s.clearRegisters).latch = none := by rfl
@[simp] theorem State.clearRegisters_done : (s.clearRegisters).done = false := by rfl
@[simp] theorem State.clearRegisters_ovr : (s.clearRegisters).ovr = false := by rfl
@[simp] theorem State.clearRegisters_errcode : (s.clearRegisters).errcode = ErrCode.ok := by rfl
@[simp] theorem State.clearRegisters_ie : (s.clearRegisters).ie = false := by rfl
@[simp] theorem State.clearRegisters_dmem : (s.clearRegisters).dmem = s.dmem := by rfl
@[simp] theorem State.clearRegisters_draws : (s.clearRegisters).draws = s.draws := by rfl
@[simp] theorem State.clearRegisters_program : (s.clearRegisters).program = s.program := by rfl
@[simp] theorem State.clearRegisters_turns : (s.clearRegisters).turns = s.turns := by rfl
@[simp] theorem State.clearRegisters_replies : (s.clearRegisters).replies = s.replies := by rfl

@[simp] theorem State.sponge_gimli : s.sponge.gimli = s.gimli := by rfl
@[simp] theorem State.sponge_pos : s.sponge.pos = s.pos := by rfl

@[simp] theorem State.takeTurn_params : s.takeTurn.params = s.params := by unfold State.takeTurn; split <;> rfl
@[simp] theorem State.takeTurn_gimli : s.takeTurn.gimli = s.gimli := by unfold State.takeTurn; split <;> rfl
@[simp] theorem State.takeTurn_pos : s.takeTurn.pos = s.pos := by unfold State.takeTurn; split <;> rfl
@[simp] theorem State.takeTurn_ctx : s.takeTurn.ctx = s.ctx := by unfold State.takeTurn; split <;> rfl
@[simp] theorem State.takeTurn_a : s.takeTurn.a = s.a := by unfold State.takeTurn; split <;> rfl
@[simp] theorem State.takeTurn_cmd : s.takeTurn.cmd = s.cmd := by unfold State.takeTurn; split <;> rfl
@[simp] theorem State.takeTurn_latch : s.takeTurn.latch = s.latch := by unfold State.takeTurn; split <;> rfl
@[simp] theorem State.takeTurn_done : s.takeTurn.done = s.done := by unfold State.takeTurn; split <;> rfl
@[simp] theorem State.takeTurn_ovr : s.takeTurn.ovr = s.ovr := by unfold State.takeTurn; split <;> rfl
@[simp] theorem State.takeTurn_errcode : s.takeTurn.errcode = s.errcode := by unfold State.takeTurn; split <;> rfl
@[simp] theorem State.takeTurn_ie : s.takeTurn.ie = s.ie := by unfold State.takeTurn; split <;> rfl
@[simp] theorem State.takeTurn_dmem : s.takeTurn.dmem = s.dmem := by unfold State.takeTurn; split <;> rfl
@[simp] theorem State.takeTurn_draws : s.takeTurn.draws = s.draws := by unfold State.takeTurn; split <;> rfl
@[simp] theorem State.takeTurn_program : s.takeTurn.program = s.program := by unfold State.takeTurn; split <;> rfl
@[simp] theorem State.takeTurn_replies : s.takeTurn.replies = s.replies := by unfold State.takeTurn; split <;> rfl

@[simp] theorem State.absorbRegion_params (x n : Nat) : (s.absorbRegion x n).params = s.params := by rfl
@[simp] theorem State.absorbRegion_gimli (x n : Nat) : (s.absorbRegion x n).gimli = (absorb s.sponge (s.readBytes x n)).gimli := by rfl
@[simp] theorem State.absorbRegion_pos (x n : Nat) : (s.absorbRegion x n).pos = (absorb s.sponge (s.readBytes x n)).pos := by rfl
@[simp] theorem State.absorbRegion_ctx (x n : Nat) : (s.absorbRegion x n).ctx = s.ctx := by rfl
@[simp] theorem State.absorbRegion_a (x n : Nat) : (s.absorbRegion x n).a = s.a := by rfl
@[simp] theorem State.absorbRegion_cmd (x n : Nat) : (s.absorbRegion x n).cmd = s.cmd := by rfl
@[simp] theorem State.absorbRegion_latch (x n : Nat) : (s.absorbRegion x n).latch = s.latch := by rfl
@[simp] theorem State.absorbRegion_done (x n : Nat) : (s.absorbRegion x n).done = s.done := by rfl
@[simp] theorem State.absorbRegion_ovr (x n : Nat) : (s.absorbRegion x n).ovr = s.ovr := by rfl
@[simp] theorem State.absorbRegion_errcode (x n : Nat) : (s.absorbRegion x n).errcode = s.errcode := by rfl
@[simp] theorem State.absorbRegion_ie (x n : Nat) : (s.absorbRegion x n).ie = s.ie := by rfl
@[simp] theorem State.absorbRegion_dmem (x n : Nat) : (s.absorbRegion x n).dmem = s.dmem := by rfl
@[simp] theorem State.absorbRegion_draws (x n : Nat) : (s.absorbRegion x n).draws = s.draws := by rfl
@[simp] theorem State.absorbRegion_program (x n : Nat) : (s.absorbRegion x n).program = s.program := by rfl
@[simp] theorem State.absorbRegion_turns (x n : Nat) : (s.absorbRegion x n).turns = s.turns := by rfl
@[simp] theorem State.absorbRegion_replies (x n : Nat) : (s.absorbRegion x n).replies = s.replies := by rfl

@[simp] theorem State.pad_params (v : Byte) : (s.pad v).params = s.params := by rfl
@[simp] theorem State.pad_gimli (v : Byte) : (s.pad v).gimli = (absorbPad s.params.padTerm s.sponge v).gimli := by rfl
@[simp] theorem State.pad_pos (v : Byte) : (s.pad v).pos = (absorbPad s.params.padTerm s.sponge v).pos := by rfl
@[simp] theorem State.pad_ctx (v : Byte) : (s.pad v).ctx = s.ctx := by rfl
@[simp] theorem State.pad_a (v : Byte) : (s.pad v).a = s.a := by rfl
@[simp] theorem State.pad_cmd (v : Byte) : (s.pad v).cmd = s.cmd := by rfl
@[simp] theorem State.pad_latch (v : Byte) : (s.pad v).latch = s.latch := by rfl
@[simp] theorem State.pad_done (v : Byte) : (s.pad v).done = s.done := by rfl
@[simp] theorem State.pad_ovr (v : Byte) : (s.pad v).ovr = s.ovr := by rfl
@[simp] theorem State.pad_errcode (v : Byte) : (s.pad v).errcode = s.errcode := by rfl
@[simp] theorem State.pad_ie (v : Byte) : (s.pad v).ie = s.ie := by rfl
@[simp] theorem State.pad_dmem (v : Byte) : (s.pad v).dmem = s.dmem := by rfl
@[simp] theorem State.pad_draws (v : Byte) : (s.pad v).draws = s.draws := by rfl
@[simp] theorem State.pad_program (v : Byte) : (s.pad v).program = s.program := by rfl
@[simp] theorem State.pad_turns (v : Byte) : (s.pad v).turns = s.turns := by rfl
@[simp] theorem State.pad_replies (v : Byte) : (s.pad v).replies = s.replies := by rfl

@[simp] theorem State.squeezeRegion_params (x n : Nat) : (s.squeezeRegion x n).params = s.params := by rfl
@[simp] theorem State.squeezeRegion_gimli (x n : Nat) : (s.squeezeRegion x n).gimli = (squeeze n s.sponge).2.gimli := by rfl
@[simp] theorem State.squeezeRegion_pos (x n : Nat) : (s.squeezeRegion x n).pos = (squeeze n s.sponge).2.pos := by rfl
@[simp] theorem State.squeezeRegion_ctx (x n : Nat) : (s.squeezeRegion x n).ctx = s.ctx := by rfl
@[simp] theorem State.squeezeRegion_a (x n : Nat) : (s.squeezeRegion x n).a = s.a := by rfl
@[simp] theorem State.squeezeRegion_cmd (x n : Nat) : (s.squeezeRegion x n).cmd = s.cmd := by rfl
@[simp] theorem State.squeezeRegion_latch (x n : Nat) : (s.squeezeRegion x n).latch = s.latch := by rfl
@[simp] theorem State.squeezeRegion_done (x n : Nat) : (s.squeezeRegion x n).done = s.done := by rfl
@[simp] theorem State.squeezeRegion_ovr (x n : Nat) : (s.squeezeRegion x n).ovr = s.ovr := by rfl
@[simp] theorem State.squeezeRegion_errcode (x n : Nat) : (s.squeezeRegion x n).errcode = s.errcode := by rfl
@[simp] theorem State.squeezeRegion_ie (x n : Nat) : (s.squeezeRegion x n).ie = s.ie := by rfl
@[simp] theorem State.squeezeRegion_dmem (x n : Nat) : (s.squeezeRegion x n).dmem = Memory.writeBytes s.dmem x (squeeze n s.sponge).1 := by rfl
@[simp] theorem State.squeezeRegion_draws (x n : Nat) : (s.squeezeRegion x n).draws = s.draws := by rfl
@[simp] theorem State.squeezeRegion_program (x n : Nat) : (s.squeezeRegion x n).program = s.program := by rfl
@[simp] theorem State.squeezeRegion_turns (x n : Nat) : (s.squeezeRegion x n).turns = s.turns := by rfl
@[simp] theorem State.squeezeRegion_replies (x n : Nat) : (s.squeezeRegion x n).replies = s.replies := by rfl

@[simp] theorem State.finishHash_params (x n : Nat) : (s.finishHash x n).params = s.params := by rfl
@[simp] theorem State.finishHash_gimli (x n : Nat) : (s.finishHash x n).gimli = (squeeze n (s.pad Config.domain).sponge).2.gimli := by rfl
@[simp] theorem State.finishHash_pos (x n : Nat) : (s.finishHash x n).pos = (squeeze n (s.pad Config.domain).sponge).2.pos := by rfl
@[simp] theorem State.finishHash_dmem (x n : Nat) : (s.finishHash x n).dmem = Memory.writeBytes s.dmem x (squeeze n (s.pad Config.domain).sponge).1 := by rfl
@[simp] theorem State.finishHash_ctx (x n : Nat) : (s.finishHash x n).ctx = Ctx.hashFinal := by rfl
@[simp] theorem State.finishHash_a (x n : Nat) : (s.finishHash x n).a = s.a := by rfl
@[simp] theorem State.finishHash_cmd (x n : Nat) : (s.finishHash x n).cmd = s.cmd := by rfl
@[simp] theorem State.finishHash_latch (x n : Nat) : (s.finishHash x n).latch = s.latch := by rfl
@[simp] theorem State.finishHash_done (x n : Nat) : (s.finishHash x n).done = s.done := by rfl
@[simp] theorem State.finishHash_ovr (x n : Nat) : (s.finishHash x n).ovr = s.ovr := by rfl
@[simp] theorem State.finishHash_errcode (x n : Nat) : (s.finishHash x n).errcode = s.errcode := by rfl
@[simp] theorem State.finishHash_ie (x n : Nat) : (s.finishHash x n).ie = s.ie := by rfl
@[simp] theorem State.finishHash_draws (x n : Nat) : (s.finishHash x n).draws = s.draws := by rfl
@[simp] theorem State.finishHash_program (x n : Nat) : (s.finishHash x n).program = s.program := by rfl
@[simp] theorem State.finishHash_turns (x n : Nat) : (s.finishHash x n).turns = s.turns := by rfl
@[simp] theorem State.finishHash_replies (x n : Nat) : (s.finishHash x n).replies = s.replies := by rfl

end Sys2Proof.Machine
end

