-- ==== Sys2Proof/Laws/Commands.lean ====
section
/-! SUPPORT. What running a command can do (60_exceptions.md R260-R270): the shared checks and the shared ending, said
once; every meaning goes through them. -/

namespace Sys2Proof.Machine

/-- Running a command: a check fails and only completion happens, or the body runs and completes with its outcome. -/
theorem State.attempt_cases (s : State) (i : Instr) (body : State → State × ErrCode) :
    (∃ e, firstError i s = some e ∧ s.attempt i body = s.complete e) ∨
      (firstError i s = none ∧ s.attempt i body = (body s).1.complete (body s).2) := by
  unfold State.attempt
  cases h : firstError i s with
  | some e => exact .inl ⟨e, rfl, rfl⟩
  | none => exact .inr ⟨rfl, rfl⟩

theorem State.attempt_rejected {s : State} {i : Instr} {e : ErrCode} (h : firstError i s = some e)
    (body : State → State × ErrCode) : s.attempt i body = s.complete e := by
  simp [State.attempt, h]

theorem State.attempt_ran {s : State} {i : Instr} (h : firstError i s = none) (body : State → State × ErrCode) :
    s.attempt i body = (body s).1.complete (body s).2 := by
  simp [State.attempt, h]

/-- What every command's body has in common: it keeps the registers no command writes (R36, R270), and its outcome is OK,
or AUTH_FAIL for AEAD_DECRYPT alone (R261). -/
structure BodyKeeps (i : Instr) (body : State → State × ErrCode) : Prop where
  params : ∀ s, (body s).1.params = s.params
  a : ∀ s, (body s).1.a = s.a
  cmd : ∀ s, (body s).1.cmd = s.cmd
  latch : ∀ s, (body s).1.latch = s.latch
  ovr : ∀ s, (body s).1.ovr = s.ovr
  ie : ∀ s, (body s).1.ie = s.ie
  draws : ∀ s, (body s).1.draws = s.draws
  program : ∀ s, (body s).1.program = s.program
  turns : ∀ s, (body s).1.turns = s.turns
  replies : ∀ s, (body s).1.replies = s.replies
  outcome : ∀ s, (body s).2 = .ok ∨ ((body s).2 = .authFail ∧ i = .aeadDecrypt)

/-- Every meaning is an attempt of its own command with a body that keeps those registers. -/
theorem exec_spec (i : Instr) (s : State) : ∃ body, exec i s = .next (s.attempt i body) ∧ BodyKeeps i body := by
  cases i
  case aeadDecrypt =>
    refine ⟨_, rfl, ?_⟩
    constructor <;> intro s <;> dsimp only <;> split <;> simp
  all_goals
    refine ⟨_, rfl, ?_⟩
    constructor <;> intro s <;> simp

/-- A region is in range, in the words of R72. -/
theorem Region.inRange_iff (size : Nat) (g : Region) : g.inRange size = true ↔ g.len = 0 ∨ g.addr + g.len ≤ size := by
  simp [Region.inRange]

/-- Two regions overlap, in the words of R74. -/
theorem Region.overlaps_iff (g h : Region) :
    g.overlaps h = true ↔ 0 < g.len ∧ 0 < h.len ∧ g.addr < h.addr + h.len ∧ h.addr < g.addr + g.len := by
  simp [Region.overlaps, and_assoc]

/-- Two regions share no byte, in the words of R74. -/
theorem Region.overlaps_eq_false_iff (g h : Region) :
    g.overlaps h = false ↔ g.len = 0 ∨ h.len = 0 ∨ g.addr + g.len ≤ h.addr ∨ h.addr + h.len ≤ g.addr := by
  rw [← Bool.not_eq_true, Region.overlaps_iff]
  omega

/-- No check fails exactly when none of the four conditions of R262 holds. -/
theorem firstError_eq_none_iff (i : Instr) (s : State) :
    firstError i s = none ↔ operandBad i = false ∧ sequenceBad i s.ctx = false ∧
      (∀ g ∈ regions i s, g.inRange s.params.dmemSize = true) ∧ anyConflict (regions i s) = false := by
  unfold firstError
  split
  · simp_all
  · split
    · simp_all
    · split
      · rename_i h
        constructor
        · intro hc
          cases hc
        · rintro ⟨_, _, hr, _⟩
          rw [List.all_eq_true.2 hr] at h
          simp at h
      · rename_i h
        split <;> simp_all

/-- A conflict is a forbidden pair somewhere in the list (R268). -/
theorem anyConflict_eq_false_iff (l : List Region) :
    anyConflict l = false ↔ l.Pairwise fun g h => g.conflicts h = false := by
  induction l with
  | nil => simp [anyConflict]
  | cons g l ih => simp [anyConflict, ih]

/-- The checks never answer OK, ILLEGAL or AUTH_FAIL (R262). -/
theorem firstError_code {i : Instr} {s : State} {e : ErrCode} (h : firstError i s = some e) :
    e = .operand ∨ e = .sequence ∨ e = .range ∨ e = .overlap := by
  unfold firstError at h
  split at h
  · simp_all
  · split at h
    · simp_all
    · split at h
      · simp_all
      · split at h <;> simp_all

end Sys2Proof.Machine
end

