-- ==== Sys2Proof/Laws/Decode.lean ====
section
/-! SUPPORT. The fields of a command word, the masks of the opcode map, and `decode` row by row (30_encoding.md R90, R94,
R95). -/

namespace Sys2Proof

/-- The full mask keeps the whole word. -/
theorem and_fullMask (w : Word) : w &&& 0xFFFFFFFF#32 = w := by
  have : 0xFFFFFFFF#32 = BitVec.allOnes 32 := by decide
  rw [this, BitVec.and_allOnes]

/-- A word is its four fields (R90). -/
theorem word_ext_fields {v w : Word} (h0 : opField v = opField w) (h1 : imm8Field v = imm8Field w) (h2 : idxField v = idxField w)
    (h3 : rsvField v = rsvField w) : v = w := by
  apply BitVec.eq_of_getLsbD_eq
  intro i hi
  have g0 := fun k => congrArg (fun b : Byte => b.getLsbD k) h0
  have g1 := fun k => congrArg (fun b : Byte => b.getLsbD k) h1
  have g2 := fun k => congrArg (fun b : Byte => b.getLsbD k) h2
  have g3 := fun k => congrArg (fun b : Byte => b.getLsbD k) h3
  simp only [opField, imm8Field, idxField, rsvField, BitVec.getLsbD_extractLsb'] at g0 g1 g2 g3
  have : i < 8 ∨ (8 ≤ i ∧ i < 16) ∨ (16 ≤ i ∧ i < 24) ∨ 24 ≤ i := by omega
  rcases this with h | h | h | h
  · simpa [h] using g0 i
  · simpa [show i - 8 < 8 by omega, show 8 + (i - 8) = i by omega] using g1 (i - 8)
  · simpa [show i - 16 < 8 by omega, show 16 + (i - 16) = i by omega] using g2 (i - 16)
  · simpa [show i - 24 < 8 by omega, show 24 + (i - 24) = i by omega] using g3 (i - 24)

/-- The fields of an encoded command (R90, R91). -/
theorem fields_encode (i : Instr) :
    opField (encode i) = i.opcode ∧ imm8Field (encode i) = i.imm8 ∧ idxField (encode i) = i.idx ∧
      rsvField (encode i) = 0#8 := by
  generalize ho : i.opcode = o
  generalize hm : i.imm8 = m
  generalize hx : i.idx = x
  unfold encode
  rw [ho, hm, hx]
  refine ⟨?_, ?_, ?_, ?_⟩ <;>
  · apply BitVec.eq_of_getLsbD_eq
    intro k hk
    simp only [opField, imm8Field, idxField, rsvField, BitVec.getLsbD_extractLsb', BitVec.getLsbD_or,
      BitVec.getLsbD_shiftLeft, BitVec.getLsbD_setWidth, hk, decide_true, Bool.true_and]
    interval_cases k <;> simp

/-- The mask of STATE_XOR_BYTE keeps OP and RSV (R94). -/
theorem stateXorByte_mask_iff (w : Word) : (w &&& 0xFF0000FF#32 = 0x05#32) ↔ opField w = 0x05#8 ∧ rsvField w = 0#8 := by
  constructor
  · intro h
    have g := fun k => congrArg (fun b : Word => b.getLsbD k) h
    simp only [BitVec.getLsbD_and] at g
    constructor <;>
    · apply BitVec.eq_of_getLsbD_eq
      intro k hk
      simp only [opField, rsvField, BitVec.getLsbD_extractLsb', hk, decide_true, Bool.true_and]
      first
      | (have := g k; interval_cases k <;> simpa using this)
      | (have := g (24 + k); interval_cases k <;> simpa using this)
  · rintro ⟨h0, h3⟩
    have g0 := fun k => congrArg (fun b : Byte => b.getLsbD k) h0
    have g3 := fun k => congrArg (fun b : Byte => b.getLsbD k) h3
    simp only [opField, rsvField, BitVec.getLsbD_extractLsb'] at g0 g3
    apply BitVec.eq_of_getLsbD_eq
    intro i hi
    rw [BitVec.getLsbD_and]
    have : i < 8 ∨ (8 ≤ i ∧ i < 24) ∨ 24 ≤ i := by omega
    rcases this with h | ⟨h, h'⟩ | h
    · have := g0 i
      interval_cases i <;> simpa using this
    · have hz : (0xFF0000FF#32).getLsbD i = false := by interval_cases i <;> rfl
      rw [hz, Bool.and_false]; interval_cases i <;> rfl
    · have := g3 (i - 24)
      interval_cases i <;> simpa using this

/-- The mask of DUPLEX_ABSORB_PAD keeps OP, IDX and RSV (R94). -/
theorem duplexAbsorbPad_mask_iff (w : Word) : (w &&& 0xFFFF00FF#32 = 0x11#32) ↔ opField w = 0x11#8 ∧ idxField w = 0#8 ∧ rsvField w = 0#8 := by
  constructor
  · intro h
    have g := fun k => congrArg (fun b : Word => b.getLsbD k) h
    simp only [BitVec.getLsbD_and] at g
    refine ⟨?_, ?_, ?_⟩ <;>
    · apply BitVec.eq_of_getLsbD_eq
      intro k hk
      simp only [opField, rsvField, idxField, BitVec.getLsbD_extractLsb', hk, decide_true, Bool.true_and]
      first
      | (have := g k; interval_cases k <;> simpa using this)
      | (have := g (24 + k); interval_cases k <;> simpa using this)
      | (have := g (16 + k); interval_cases k <;> simpa using this)
  · rintro ⟨h0, h2, h3⟩
    have g0 := fun k => congrArg (fun b : Byte => b.getLsbD k) h0
    have g2 := fun k => congrArg (fun b : Byte => b.getLsbD k) h2
    have g3 := fun k => congrArg (fun b : Byte => b.getLsbD k) h3
    simp only [opField, rsvField, idxField, BitVec.getLsbD_extractLsb'] at g0 g2 g3
    apply BitVec.eq_of_getLsbD_eq
    intro i hi
    rw [BitVec.getLsbD_and]
    have : i < 8 ∨ (8 ≤ i ∧ i < 16) ∨ (16 ≤ i ∧ i < 24) ∨ 24 ≤ i := by omega
    rcases this with h | ⟨h, h'⟩ | ⟨h, h'⟩ | h
    · have := g0 i
      interval_cases i <;> simpa using this
    · have hz : (0xFFFF00FF#32).getLsbD i = false := by interval_cases i <;> rfl
      rw [hz, Bool.and_false]; interval_cases i <;> rfl
    · have := g2 (i - 16)
      interval_cases i <;> simpa using this
    · have := g3 (i - 24)
      interval_cases i <;> simpa using this

/-- The opcode map, one row after another (R94, R95). -/
theorem decode_eq (w : Word) : decode w =
    if w = 0x01#32 then .ok .permute else if w = 0x02#32 then .ok .stateZero
    else if w = 0x03#32 then .ok .stateLoad else if w = 0x04#32 then .ok .stateStore
    else if opField w = 0x05#8 ∧ rsvField w = 0#8 then .ok (.stateXorByte (idxField w) (imm8Field w))
    else if w = 0x10#32 then .ok .duplexAbsorb
    else if opField w = 0x11#8 ∧ idxField w = 0#8 ∧ rsvField w = 0#8 then .ok (.duplexAbsorbPad (imm8Field w))
    else if w = 0x12#32 then .ok .duplexSqueeze else if w = 0x20#32 then .ok .aeadEncrypt
    else if w = 0x21#32 then .ok .aeadDecrypt else if w = 0x30#32 then .ok .hashInit
    else if w = 0x31#32 then .ok .hashUpdate else if w = 0x32#32 then .ok .hashFinalize
    else if w = 0x33#32 then .ok .hashFinalizeXof else if w = 0x34#32 then .ok .hash
    else .error (whyIllegal w) := by
  unfold decode opcodeTable
  simp only [List.find?_cons, OpcodeRow.accepts, and_fullMask, List.find?_nil]
  rw [show ((w &&& 4278190335#32 == 5#32)) = decide (opField w = 0x05#8 ∧ rsvField w = 0#8) by
    rw [beq_eq_decide]; exact decide_eq_decide.2 (stateXorByte_mask_iff w)]
  rw [show ((w &&& 4294902015#32 == 17#32)) = decide (opField w = 0x11#8 ∧ idxField w = 0#8 ∧ rsvField w = 0#8) by
    rw [beq_eq_decide]; exact decide_eq_decide.2 (duplexAbsorbPad_mask_iff w)]
  simp only [beq_eq_decide]
  by_cases h1 : w = 1#32
  · subst h1; rfl
  by_cases h2 : w = 2#32
  · subst h2; rfl
  by_cases h3 : w = 3#32
  · subst h3; rfl
  by_cases h4 : w = 4#32
  · subst h4; rfl
  simp only [h1, h2, h3, h4, decide_false, if_false]
  by_cases h5 : opField w = 0x05#8 ∧ rsvField w = 0#8
  · simp only [h5, and_self, decide_true, if_true]
  by_cases h6 : w = 0x10#32
  · subst h6; rfl
  simp only [h5, h6, decide_false, if_false]
  by_cases h7 : opField w = 0x11#8 ∧ idxField w = 0#8 ∧ rsvField w = 0#8
  · simp only [h7, and_self, decide_true, if_true]
  simp only [h7, decide_false, if_false]
  by_cases a1 : w = 0x12#32
  · subst a1; rfl
  by_cases a2 : w = 0x20#32
  · subst a2; rfl
  by_cases a3 : w = 0x21#32
  · subst a3; rfl
  by_cases a4 : w = 0x30#32
  · subst a4; rfl
  by_cases a5 : w = 0x31#32
  · subst a5; rfl
  by_cases a6 : w = 0x32#32
  · subst a6; rfl
  by_cases a7 : w = 0x33#32
  · subst a7; rfl
  by_cases a8 : w = 0x34#32
  · subst a8; rfl
  simp only [a1, a2, a3, a4, a5, a6, a7, a8, decide_false, if_false]

end Sys2Proof
end

