-- ==== Sys2Proof/Laws/Exec.lean ====
section
/-! SUPPORT. What each command answers when no check fails, and when one does (60_exceptions.md R260, R262, R263): cite
these and the field lemmas of Laws/State.lean; do not unfold `exec`. Rewriting with a lemma keeps the kernel from running
the 16 or 32 squeeze steps of a literal length, which a definitional unfolding would. -/

namespace Sys2Proof.Machine

variable {s t : State}

/-- A command that answers OK failed no check and ran its body. -/
theorem State.attempt_ok {i : Instr} {body : State → State × ErrCode} (h : s.attempt i body = t) (ho : t.errcode = .ok) :
    firstError i s = none ∧ t = (body s).1.complete (body s).2 := by
  obtain ⟨e, he, h2⟩ | ⟨he, h2⟩ := State.attempt_cases s i body
  · rw [h2] at h
    subst h
    obtain rfl | rfl | rfl | rfl := firstError_code he <;> simp at ho
  · exact ⟨he, by rw [← h, h2]⟩

/-- A command that fails a check is rejected (R263). -/
theorem exec_rejected {i : Instr} {e : ErrCode} (h : firstError i s = some e) : exec i s = .next (s.complete e) := by
  obtain ⟨body, hb, -⟩ := exec_spec i s
  rw [hb, State.attempt_rejected h]

/-- The checks of a command with at most one region (R262): no OVERLAP. -/
theorem firstError_oneRegion {i : Instr} {g : Region} (h : operandBad i = false) (hr : regions i s = [g]) :
    firstError i s = if sequenceBad i s.ctx then some .sequence
      else if g.inRange s.params.dmemSize then none else some .range := by
  simp only [firstError, h, hr, anyConflict]
  cases hg : g.inRange s.params.dmemSize <;> cases sequenceBad i s.ctx <;> simp [hg]

/-- Writing a string and reading its length back. -/
theorem Memory.readBytes_writeBytes_length (m : List Host.Cell) {bs : List Byte} (a : Nat) {n : Nat}
    (h : bs.length = n) : Memory.readBytes (Memory.writeBytes m a bs) a n = bs := by
  subst h
  exact Memory.readBytes_writeBytes_same m bs a

/-- The bytes a finished hash or XOF leaves in its region (R232, R233). -/
theorem State.readBytes_finishHash (a n : Nat) (e : ErrCode) :
    ((s.finishHash a n).complete e).readBytes a n = (squeeze n (s.pad Config.domain).sponge).1 := by
  rw [State.readBytes, State.complete_dmem, State.finishHash_dmem,
    Memory.readBytes_writeBytes_length _ _ (squeeze_length _ _)]

/-- The bytes a squeeze leaves in its region (R177). -/
theorem State.readBytes_squeezeRegion (a n : Nat) (c : Ctx) (e : ErrCode) :
    (((s.squeezeRegion a n).setCtx c).complete e).readBytes a n = (squeeze n s.sponge).1 := by
  rw [State.readBytes, State.complete_dmem, State.setCtx_dmem, State.squeezeRegion_dmem,
    Memory.readBytes_writeBytes_length _ _ (squeeze_length _ _)]

/-! ### The answer of each command that passes its checks -/

theorem exec_permute_ran (h : firstError .permute s = none) :
    exec .permute s =
      .next (((s.setGimli (permute s.gimli)).setCtx .none).complete .ok) := congrArg Host.Outcome.next (State.attempt_ran h _)

theorem exec_permute_ok (h : exec .permute s = .next t) (ho : t.errcode = .ok) :
    t = ((s.setGimli (permute s.gimli)).setCtx .none).complete .ok :=
  (State.attempt_ok (Host.Outcome.next.inj h) ho).2

theorem exec_stateZero_ran (h : firstError .stateZero s = none) :
    exec .stateZero s =
      .next (((s.setSponge { gimli := zeroGimli, pos := 0#5 }).setCtx .none).complete .ok) := congrArg Host.Outcome.next (State.attempt_ran h _)

theorem exec_stateZero_ok (h : exec .stateZero s = .next t) (ho : t.errcode = .ok) :
    t = ((s.setSponge { gimli := zeroGimli, pos := 0#5 }).setCtx .none).complete .ok :=
  (State.attempt_ok (Host.Outcome.next.inj h) ho).2

theorem exec_stateLoad_ran (h : firstError .stateLoad s = none) :
    exec .stateLoad s =
      .next (((s.setSponge { gimli := gimliOfBytes (s.readBytes (s.operand 0) Config.stateSize), pos := 0#5 }).setCtx .none).complete .ok) := congrArg Host.Outcome.next (State.attempt_ran h _)

theorem exec_stateLoad_ok (h : exec .stateLoad s = .next t) (ho : t.errcode = .ok) :
    t = ((s.setSponge { gimli := gimliOfBytes (s.readBytes (s.operand 0) Config.stateSize), pos := 0#5 }).setCtx .none).complete .ok :=
  (State.attempt_ok (Host.Outcome.next.inj h) ho).2

theorem exec_stateStore_ran (h : firstError .stateStore s = none) :
    exec .stateStore s =
      .next ((s.writeBytes (s.operand 0) (gimliBytes s.gimli 0 Config.stateSize)).complete .ok) := congrArg Host.Outcome.next (State.attempt_ran h _)

theorem exec_stateStore_ok (h : exec .stateStore s = .next t) (ho : t.errcode = .ok) :
    t = (s.writeBytes (s.operand 0) (gimliBytes s.gimli 0 Config.stateSize)).complete .ok :=
  (State.attempt_ok (Host.Outcome.next.inj h) ho).2

theorem exec_stateXorByte_ran {idx v : Byte} (h : firstError (.stateXorByte idx v) s = none) :
    exec (.stateXorByte idx v) s =
      .next (((s.setGimli (xorByteAt s.gimli idx.toNat v)).setCtx .none).complete .ok) := congrArg Host.Outcome.next (State.attempt_ran h _)

theorem exec_stateXorByte_ok {idx v : Byte} (h : exec (.stateXorByte idx v) s = .next t) (ho : t.errcode = .ok) :
    t = ((s.setGimli (xorByteAt s.gimli idx.toNat v)).setCtx .none).complete .ok :=
  (State.attempt_ok (Host.Outcome.next.inj h) ho).2

theorem exec_duplexAbsorb_ran (h : firstError .duplexAbsorb s = none) :
    exec .duplexAbsorb s =
      .next (((s.absorbRegion (s.operand 0) (s.operand 1)).setCtx .none).complete .ok) := congrArg Host.Outcome.next (State.attempt_ran h _)

theorem exec_duplexAbsorb_ok (h : exec .duplexAbsorb s = .next t) (ho : t.errcode = .ok) :
    t = ((s.absorbRegion (s.operand 0) (s.operand 1)).setCtx .none).complete .ok :=
  (State.attempt_ok (Host.Outcome.next.inj h) ho).2

theorem exec_duplexAbsorbPad_ran {d : Byte} (h : firstError (.duplexAbsorbPad d) s = none) :
    exec (.duplexAbsorbPad d) s =
      .next (((s.pad d).setCtx .none).complete .ok) := congrArg Host.Outcome.next (State.attempt_ran h _)

theorem exec_duplexAbsorbPad_ok {d : Byte} (h : exec (.duplexAbsorbPad d) s = .next t) (ho : t.errcode = .ok) :
    t = ((s.pad d).setCtx .none).complete .ok :=
  (State.attempt_ok (Host.Outcome.next.inj h) ho).2

theorem exec_duplexSqueeze_ran (h : firstError .duplexSqueeze s = none) :
    exec .duplexSqueeze s =
      .next (((s.squeezeRegion (s.operand 0) (s.operand 1)).setCtx .none).complete .ok) := congrArg Host.Outcome.next (State.attempt_ran h _)

theorem exec_duplexSqueeze_ok (h : exec .duplexSqueeze s = .next t) (ho : t.errcode = .ok) :
    t = ((s.squeezeRegion (s.operand 0) (s.operand 1)).setCtx .none).complete .ok :=
  (State.attempt_ok (Host.Outcome.next.inj h) ho).2

theorem exec_aeadEncrypt_ran (h : firstError .aeadEncrypt s = none) :
    exec .aeadEncrypt s =
      .next ((((s.writeBytes (s.operand 4) s.aeadEncrypted.1).writeBytes (s.operand 6) (tagOf s.params.tagBase s.aeadEncrypted.2.gimli)).scrub).complete .ok) := congrArg Host.Outcome.next (State.attempt_ran h _)

theorem exec_aeadEncrypt_ok (h : exec .aeadEncrypt s = .next t) (ho : t.errcode = .ok) :
    t = (((s.writeBytes (s.operand 4) s.aeadEncrypted.1).writeBytes (s.operand 6) (tagOf s.params.tagBase s.aeadEncrypted.2.gimli)).scrub).complete .ok :=
  (State.attempt_ok (Host.Outcome.next.inj h) ho).2

theorem exec_hashInit_ran (h : firstError .hashInit s = none) :
    exec .hashInit s =
      .next (((s.setSponge { gimli := zeroGimli, pos := 0#5 }).setCtx .hash).complete .ok) := congrArg Host.Outcome.next (State.attempt_ran h _)

theorem exec_hashInit_ok (h : exec .hashInit s = .next t) (ho : t.errcode = .ok) :
    t = ((s.setSponge { gimli := zeroGimli, pos := 0#5 }).setCtx .hash).complete .ok :=
  (State.attempt_ok (Host.Outcome.next.inj h) ho).2

theorem exec_hashUpdate_ran (h : firstError .hashUpdate s = none) :
    exec .hashUpdate s =
      .next ((s.absorbRegion (s.operand 0) (s.operand 1)).complete .ok) := congrArg Host.Outcome.next (State.attempt_ran h _)

theorem exec_hashUpdate_ok (h : exec .hashUpdate s = .next t) (ho : t.errcode = .ok) :
    t = (s.absorbRegion (s.operand 0) (s.operand 1)).complete .ok :=
  (State.attempt_ok (Host.Outcome.next.inj h) ho).2

theorem exec_hashFinalize_ran (h : firstError .hashFinalize s = none) :
    exec .hashFinalize s =
      .next ((s.finishHash (s.operand 0) Config.digestSize).complete .ok) := congrArg Host.Outcome.next (State.attempt_ran h _)

theorem exec_hashFinalize_ok (h : exec .hashFinalize s = .next t) (ho : t.errcode = .ok) :
    t = (s.finishHash (s.operand 0) Config.digestSize).complete .ok :=
  (State.attempt_ok (Host.Outcome.next.inj h) ho).2

theorem exec_hashFinalizeXof_ran (h : firstError .hashFinalizeXof s = none) :
    exec .hashFinalizeXof s =
      .next ((s.finishHash (s.operand 0) (s.operand 1)).complete .ok) := congrArg Host.Outcome.next (State.attempt_ran h _)

theorem exec_hashFinalizeXof_ok (h : exec .hashFinalizeXof s = .next t) (ho : t.errcode = .ok) :
    t = (s.finishHash (s.operand 0) (s.operand 1)).complete .ok :=
  (State.attempt_ok (Host.Outcome.next.inj h) ho).2

theorem exec_hash_ran (h : firstError .hash s = none) :
    exec .hash s =
      .next ((((s.setSponge { gimli := zeroGimli, pos := 0#5 }).absorbRegion (s.operand 0) (s.operand 1)).finishHash
      (s.operand 2) Config.digestSize).complete .ok) := congrArg Host.Outcome.next (State.attempt_ran h _)

theorem exec_hash_ok (h : exec .hash s = .next t) (ho : t.errcode = .ok) :
    t = (((s.setSponge { gimli := zeroGimli, pos := 0#5 }).absorbRegion (s.operand 0) (s.operand 1)).finishHash
      (s.operand 2) Config.digestSize).complete .ok :=
  (State.attempt_ok (Host.Outcome.next.inj h) ho).2

/-- AEAD_DECRYPT (R208, R269): the tag verifies and the plaintext stays, or the buffer is zeroed. -/
theorem exec_aeadDecrypt_ran (h : firstError .aeadDecrypt s = none) :
    exec .aeadDecrypt s = .next
      (if tagEqual (tagOf s.params.tagBase s.aeadDecrypted.2.gimli)
          ((s.writeBytes (s.operand 4) s.aeadDecrypted.1).readBytes (s.operand 6) Config.tagSize) then
        (s.writeBytes (s.operand 4) s.aeadDecrypted.1).scrub.complete .ok
      else ((s.writeBytes (s.operand 4) s.aeadDecrypted.1).writeBytes (s.operand 4)
        (List.replicate (s.operand 5) 0#8)).scrub.complete .authFail) := by
  refine (congrArg Host.Outcome.next (State.attempt_ran h _)).trans ?_
  by_cases c : tagEqual (tagOf s.params.tagBase s.aeadDecrypted.2.gimli)
    ((s.writeBytes (s.operand 4) s.aeadDecrypted.1).readBytes (s.operand 6) Config.tagSize) = true
  · simp only [c, if_true]
  · simp only [c, Bool.false_eq_true, if_false]

end Sys2Proof.Machine
end

