-- ==== Sys2Proof/Laws/PerInstr.lean ====
section
/-! SUPPORT. A fact about every command, one lemma per constructor: the word of a command matches its own row of the opcode
map (30_encoding.md R91, R94), the unused fields being zero. -/

namespace Sys2Proof.Laws.EncodesItsRow

/-- The word of a command carries its opcode, its operand bytes, and RSV = 0 (R90, R91). -/
def Statement (i : Instr) : Prop :=
  opField (encode i) = i.opcode ∧ imm8Field (encode i) = i.imm8 ∧ idxField (encode i) = i.idx ∧
    rsvField (encode i) = 0#8

theorem permute : Statement .permute := fields_encode _

theorem stateZero : Statement .stateZero := fields_encode _

theorem stateLoad : Statement .stateLoad := fields_encode _

theorem stateStore : Statement .stateStore := fields_encode _

theorem stateXorByte (idx imm8 : Byte) : Statement (.stateXorByte idx imm8) := fields_encode _

theorem duplexAbsorb : Statement .duplexAbsorb := fields_encode _

theorem duplexAbsorbPad (imm8 : Byte) : Statement (.duplexAbsorbPad imm8) := fields_encode _

theorem duplexSqueeze : Statement .duplexSqueeze := fields_encode _

theorem aeadEncrypt : Statement .aeadEncrypt := fields_encode _

theorem aeadDecrypt : Statement .aeadDecrypt := fields_encode _

theorem hashInit : Statement .hashInit := fields_encode _

theorem hashUpdate : Statement .hashUpdate := fields_encode _

theorem hashFinalize : Statement .hashFinalize := fields_encode _

theorem hashFinalizeXof : Statement .hashFinalizeXof := fields_encode _

theorem hash : Statement .hash := fields_encode _

end Sys2Proof.Laws.EncodesItsRow
end

