-- ==== Sys2Proof/Laws/Permutation.lean ====
section
/-! SUPPORT. The one way to unfold P (40_permutation.md R130): `permute` is irreducible, and `rw [permute_eq]` gives its
24 rounds. -/

namespace Sys2Proof.Machine

theorem permute_eq (g : Gimli) : permute g = gimliRounds Config.rounds g := by
  unfold permute
  rfl

/-- Round r comes before the rounds below it (R130). -/
theorem gimliRounds_succ (r : Nat) (g : Gimli) : gimliRounds (r + 1) g = gimliRounds r (gimliRound g (r + 1)) := rfl

end Sys2Proof.Machine
end

