-- ==== Sys2Proof/Tests/Slice0.lean ====
section
/-! SUPPORT. The model's own tests. Expected values come from spec/: the encodings of 30_encoding.md and the vectors of
95_test_vectors.md, named in each test. Then one witness for the hypotheses of each statement that has any. -/

namespace Sys2Proof.Tests

open Sys2Proof Sys2Proof.Machine

-- one theorem at a time, up to the namespace's end: many slow kernel checks at once would each hold a thread's stack
set_option Elab.async false

/-! ### Helpers -/

/-- A memory with these bytes written at an address. -/
def bytesAt (a : Nat) (bs : List Byte) : List Host.Cell := Memory.writeBytes [] a bs

/-- From reset: DMEM and the operand registers written, then the CMD write of the command accepted. -/
def issued (i : Instr) (a : Vector Word 8) (m : List Host.Cell) : State :=
  ({ State.reset with a := a, dmem := m } : State).accept (encode i)

/-- A0, A1, A2 as given, the others 0. -/
def ops3 (a b c : Word) : Vector Word 8 := #v[a, b, c, 0, 0, 0, 0, 0]

/-- The state after a step; the state itself where the step does not answer one. -/
def stepped (s : State) : State :=
  match step s with
  | .next t => t
  | .fault _ => s
  | .refused _ => s

/-- The state after a command. -/
def ran (i : Instr) (s : State) : State :=
  match exec i s with
  | .next t => t
  | .fault _ => s
  | .refused _ => s

/-- A command always answers a next state (R260). -/
theorem exec_ran (i : Instr) (s : State) : exec i s = .next (ran i s) := by
  obtain ⟨body, h, -⟩ := exec_spec i s
  rw [ran, h]

/-- The state after a host operation. -/
def hosted (op : HostOp) (s : State) : State :=
  match hostOp op s with
  | .next t => t
  | .fault _ => s
  | .refused _ => s

/-! ### Well-formedness: a term each check refuses -/

theorem test_wf_immediate_out_of_byte : AsmLine.wf (.duplexAbsorbPad 256) = false := by decide
theorem test_wf_index_out_of_byte : AsmLine.immediatesFit (.stateXorByte 256 0) = false := by decide
theorem test_wf_operand_out_of_word : AsmLine.operandsFit (.stateLoad (2 ^ 32)) = false := by decide
theorem test_wf_line : AsmLine.wf (.stateXorByte 255 255) = true ∧ AsmLine.wf (.stateLoad (2 ^ 32 - 1)) = true := by
  decide
theorem test_wf_params : ¬Params.wf { Params.literals with dmemSize := 63 } ∧
    ¬Params.wf { Params.literals with dmemSize := 2 ^ 32 + 1 } ∧ Params.wf { Params.literals with dmemSize := 64 } ∧
    Params.wf { Params.literals with dmemSize := 2 ^ 32 } ∧ Params.wf Params.interop := by decide
/-- A memory out of order, and one with a repeat, is not canonical (log 7). -/
theorem test_memory_wf : ¬Memory.wf [(2, 0#8), (1, 0#8)] ∧ ¬Memory.wf [(1, 0#8), (1, 0#8)] ∧
    Memory.wf State.reset.dmem ∧ bytesAt 5 [1#8, 2#8] = [(5, 1#8), (6, 2#8)] ∧
    Memory.write [(5, 1#8), (6, 2#8)] 5 9#8 = [(5, 9#8), (6, 2#8)] := by decide
theorem test_memory_inside : ¬Memory.inside 64 [(64, 0#8)] ∧ Memory.inside 64 [(63, 0#8)] := by decide
/-- The fields of a STATE that the invariant rules out. -/
theorem test_inv_refuses : ¬State.PosLegal { State.reset with pos := 17#5 } ∧
    ¬State.BusyNotDone { issued .permute (ops3 0 0 0) [] with done := true } := by decide

/-! ### Decoding: words written out bit by bit from R90 and R94 (OP 7:0, IMM8 15:8, IDX 23:16, RSV 31:24) -/

theorem test_decode_permute : decode 0b00000000_00000000_00000000_00000001#32 = .ok .permute := by decide
theorem test_decode_stateZero : decode 0b00000000_00000000_00000000_00000010#32 = .ok .stateZero := by decide
theorem test_decode_stateLoad : decode 0b00000000_00000000_00000000_00000011#32 = .ok .stateLoad := by decide
theorem test_decode_stateStore : decode 0b00000000_00000000_00000000_00000100#32 = .ok .stateStore := by decide
theorem test_decode_stateXorByte :
    decode 0b00000000_00101111_10000000_00000101#32 = .ok (.stateXorByte 47#8 0x80#8) := by decide
theorem test_decode_duplexAbsorb : decode 0b00000000_00000000_00000000_00010000#32 = .ok .duplexAbsorb := by decide
theorem test_decode_duplexAbsorbPad :
    decode 0b00000000_00000000_00011111_00010001#32 = .ok (.duplexAbsorbPad 0x1F#8) := by decide
theorem test_decode_duplexSqueeze : decode 0b00000000_00000000_00000000_00010010#32 = .ok .duplexSqueeze := by decide
theorem test_decode_aeadEncrypt : decode 0b00000000_00000000_00000000_00100000#32 = .ok .aeadEncrypt := by decide
theorem test_decode_aeadDecrypt : decode 0b00000000_00000000_00000000_00100001#32 = .ok .aeadDecrypt := by decide
theorem test_decode_hashInit : decode 0b00000000_00000000_00000000_00110000#32 = .ok .hashInit := by decide
theorem test_decode_hashUpdate : decode 0b00000000_00000000_00000000_00110001#32 = .ok .hashUpdate := by decide
theorem test_decode_hashFinalize : decode 0b00000000_00000000_00000000_00110010#32 = .ok .hashFinalize := by decide
theorem test_decode_hashFinalizeXof : decode 0b00000000_00000000_00000000_00110011#32 = .ok .hashFinalizeXof := by
  decide
theorem test_decode_hash : decode 0b00000000_00000000_00000000_00110100#32 = .ok .hash := by decide
/-- R96, each by its name: an unassigned OP, a non-zero RSV, and a field the opcode does not use. -/
theorem test_decode_refusals :
    decode 0x00000000#32 = .error .unassignedOpcode ∧ decode 0x00000035#32 = .error .unassignedOpcode ∧
    decode 0x01000001#32 = .error .reservedFieldNonzero ∧ decode 0x80000011#32 = .error .reservedFieldNonzero ∧
    decode 0x00000101#32 = .error .unusedFieldNonzero ∧ decode 0x00010011#32 = .error .unusedFieldNonzero := by decide
/-- The encodings of R143 and R176. -/
theorem test_encode : encode (.stateXorByte 5#8 0xAB#8) = 0x0005AB05#32 ∧ encode (.duplexAbsorbPad 0x01#8) = 0x00000111#32 ∧
    encode .hash = 0x00000034#32 := by decide
theorem test_decodeTableWord : decodeTableWord 32 0x00000034 = some .hash ∧ decodeTableWord 32 0 = none := by decide
/-- R99's `hash_update a, n`. -/
theorem test_expand : expand (.hashUpdate 0x100 3) = some [.regWrite 0x20 32 0x100#32, .regWrite 0x24 32 3#32,
    .regWrite 0x00 32 0x31#32, .poll] := by decide

/-! ### The permutation -/

/-- V-S1, V-S4 and V-S5 on column 0; V-S8 on column 3. -/
theorem test_spBox :
    (spBox #v[0x00000001, 0, 0, 0, 0, 0, 0, 0, 0, 0, 0, 0] 0).toList =
      [0, 0, 0, 0, 0x03000000, 0, 0, 0, 0x01000000, 0, 0, 0] ∧
    (spBox #v[0, 0, 0, 0, 0, 0, 0, 0, 0x80000000, 0, 0, 0] 0).toList = [0x80000000, 0, 0, 0, 0, 0, 0, 0, 0, 0, 0, 0] ∧
    (spBox #v[0xffffffff, 0, 0, 0, 0xffffffff, 0, 0, 0, 0xffffffff, 0, 0, 0] 0).toList =
      [0xfffffff8, 0, 0, 0, 0xfffffffe, 0, 0, 0, 0xfffffffd, 0, 0, 0] ∧
    (spBox #v[0, 0, 0, 0x12345678, 0, 0, 0, 0x9abcdef0, 0, 0, 0, 0x0fedcba9] 3).toList =
      [0, 0, 0, 0xb6d12a3c, 0, 0, 0, 0xfe502a9d, 0, 0, 0, 0x417ea780] := by decide +kernel
/-- V-R1 and V-R3 (the round of V-R2's result). -/
theorem test_rounds : (gimliRound zeroGimli 24).toList = [0x9e377918, 0, 0, 0, 0, 0, 0, 0, 0, 0, 0, 0] ∧
    (gimliRound #v[0, 0, 0, 0, 0x29a2598b, 0, 0, 0, 0x189e3779, 0, 0, 0] 22).toList =
      [0, 0, 0x5c2d212a, 0, 0x758f78a1, 0, 0, 0, 0x337437b6, 0, 0, 0] := by decide +kernel
/-- V-P2: the canonical state i³ + i·0x9e3779b9. -/
theorem test_permute_canonical :
    (permute #v[0x00000000, 0x9e3779ba, 0x3c6ef37a, 0xdaa66d46, 0x78dde724, 0x1715611a, 0xb54cdb2e, 0x53845566,
      0xf1bbcfc8, 0x8ff34a5a, 0x2e2ac522, 0xcc624026]).toList =
    [0xba11c85a, 0x91bad119, 0x380ce880, 0xd24c2c68, 0x3eceffea, 0x277a921c, 0x4f73a0bd, 0xda5a9cd8, 0x84b673f0,
      0x34e52ff7, 0x9e2bef49, 0xf41bb8d6] := by decide +kernel

/-- P of the all-zero state, V-P3. -/
def vP3 : Gimli :=
  #v[0x6467d8c4, 0x07dcf83b, 0x3b0bb0d4, 0x1b21364c, 0x083431dc, 0x0efbbe8e, 0x0054e884, 0x648bd955, 0x4a5db42e,
    0xca0641cb, 0x8673d2c2, 0x2e30d809]

/-- The state of V-D4: the pad with domain 0x01 on the zero state. -/
def vD4 : Gimli :=
  #v[0x579fdca5, 0x979b0d3c, 0x86eacfe5, 0x456d5735, 0x8a992a08, 0x960b0974, 0xbcc66ae6, 0x0107080f, 0x8f284d27,
    0x275baad7, 0x5dd78c09, 0x5eef9140]

theorem vP3_eq : permute zeroGimli = vP3 := by decide +kernel
theorem vD4_eq : absorbPad 0x80#8 { gimli := zeroGimli, pos := 0#5 } 0x01#8 = { gimli := vD4, pos := 0#5 } := by
  decide +kernel

/-! ### The commands -/

/-- V-P3: PERMUTE from reset. -/
theorem test_permute_from_reset :
    let t := stepped (issued .permute (ops3 0 0 0) [])
    t.gimli = vP3 ∧ t.pos = 0#5 ∧ t.ctx = .none ∧ statusWord t = 0x00000002#32 := by decide +kernel
/-- R139: POS keeps its value, 16. -/
theorem test_permute_keeps_pos : (ran .permute { State.reset with pos := 16#5, ctx := .hash }).pos = 16#5 ∧
    (ran .permute { State.reset with pos := 16#5, ctx := .hash }).ctx = .none := by decide +kernel
/-- V-T6: STATE_ZERO with POS = 16. -/
theorem test_stateZero :
    let t := ran .stateZero { State.reset with gimli := vP3, pos := 16#5, ctx := .hash }
    t.gimli = zeroGimli ∧ statusWord t = 0x00000002#32 := by decide +kernel
/-- V-T1: STATE_LOAD of 000102…2f. -/
theorem test_stateLoad :
    let t := stepped (issued .stateLoad (ops3 0x100 0 0) (bytesAt 0x100 ((List.range 48).map (BitVec.ofNat 8))))
    t.gimli.toList = [0x03020100, 0x07060504, 0x0b0a0908, 0x0f0e0d0c, 0x13121110, 0x17161514, 0x1b1a1918, 0x1f1e1d1c,
      0x23222120, 0x27262524, 0x2b2a2928, 0x2f2e2d2c] ∧ statusWord t = 0x00000002#32 := by decide +kernel
/-- V-T8: STATE_LOAD at 4049. -/
theorem test_stateLoad_range : statusWord (stepped (issued .stateLoad (ops3 4049 0 0) [])) = 0x00000042#32 := by
  decide +kernel
/-- R142 on the first bytes of V-P3's state, with POS and CTX kept. -/
theorem test_stateStore :
    let t := ran .stateStore { issued .stateStore (ops3 0x40 0 0) [] with gimli := vP3, pos := 7#5, ctx := .hash }
    t.readBytes 0x40 5 = [0xc4#8, 0xd8#8, 0x67#8, 0x64#8, 0x3b#8] ∧ t.readBytes 0x6f 1 = [0x2e#8] ∧ t.gimli = vP3 ∧
      statusWord t = 0x00070102#32 := by decide +kernel
/-- V-T9: STATE_STORE at 4049. -/
theorem test_stateStore_range :
    let t := stepped (issued .stateStore (ops3 4049 0 0) [])
    statusWord t = 0x00000042#32 ∧ t.dmem = [] := by decide +kernel
/-- V-T4: byte 5 is bits 15:8 of word 1. -/
theorem test_stateXorByte :
    (stepped (issued (.stateXorByte 5#8 0xAB#8) (ops3 0 0 0) [])).gimli.toList =
      [0, 0x0000ab00, 0, 0, 0, 0, 0, 0, 0, 0, 0, 0] := by decide +kernel
/-- V-T5: IDX = 48. -/
theorem test_stateXorByte_operand :
    let t := stepped (State.reset.withFetchWord 32 0x00308005)
    statusWord t = 0x00000022#32 ∧ t.gimli = zeroGimli := by decide +kernel
/-- V-D1: three bytes absorbed. -/
theorem test_duplexAbsorb :
    let t := stepped (issued .duplexAbsorb (ops3 0x100 3 0) (bytesAt 0x100 [1#8, 2#8, 3#8]))
    t.gimli.toList = [0x00030201, 0, 0, 0, 0, 0, 0, 0, 0, 0, 0, 0] ∧ statusWord t = 0x00030002#32 := by decide +kernel
/-- V-D15: the sum does not wrap. -/
theorem test_duplexAbsorb_no_wrap :
    statusWord (stepped (issued .duplexAbsorb (ops3 0xFFFFFFF0 0x20 0) [])) = 0x00000042#32 := by decide +kernel
/-- V-D4: the pad with domain 0x01. -/
theorem test_duplexAbsorbPad :
    let t := stepped (issued (.duplexAbsorbPad 0x01#8) (ops3 0 0 0) [])
    t.gimli = vD4 ∧ statusWord t = 0x00000002#32 := by decide +kernel
/-- The interoperability terminator (G1): with PAD_TERM = 0x01 and domain 0x00 the pad XORs 0x01 into byte 47. -/
theorem test_absorbPad_term : absorbPad 0x01#8 { gimli := zeroGimli, pos := 0#5 } 0x00#8 =
    { gimli := permute #v[0, 0, 0, 0, 0, 0, 0, 0, 0, 0, 0, 0x01000000], pos := 0#5 } := by decide +kernel
/-- V-D9: 16 zero bytes, and POS = 16 with no permutation. -/
theorem test_duplexSqueeze :
    let t := stepped (issued .duplexSqueeze (ops3 0x200 16 0) [])
    t.readBytes 0x200 16 = List.replicate 16 0x00#8 ∧ t.gimli = zeroGimli ∧ statusWord t = 0x00100002#32 := by
  decide +kernel
/-- V-D11's last byte: with POS = 16 the next byte is byte 0 of V-P3. -/
theorem test_duplexSqueeze_lazy :
    let t := ran .duplexSqueeze { issued .duplexSqueeze (ops3 0x210 1 0) [] with pos := 16#5 }
    t.readBytes 0x210 1 = [0xc4#8] ∧ t.pos = 1#5 := by decide +kernel
/-- R230: HASH_INIT from any state. -/
theorem test_hashInit :
    let t := ran .hashInit { State.reset with gimli := vP3, pos := 9#5, ctx := .hashFinal }
    t.gimli = zeroGimli ∧ statusWord t = 0x00000102#32 := by decide +kernel
/-- R266: HASH_UPDATE from reset. -/
theorem test_hashUpdate_sequence : statusWord (stepped (issued .hashUpdate (ops3 0 0 0) [])) = 0x00000032#32 := by
  decide +kernel
/-- R231: HASH_UPDATE absorbs and keeps CTX = HASH. -/
theorem test_hashUpdate :
    let t := ran .hashUpdate
      { issued .hashUpdate (ops3 0x100 3 0) (bytesAt 0x100 [0x61#8, 0x62#8, 0x63#8]) with ctx := .hash }
    t.gimli.toList = [0x00636261, 0, 0, 0, 0, 0, 0, 0, 0, 0, 0, 0] ∧ statusWord t = 0x00030102#32 := by decide +kernel
/-- V-H1: the digest of "" is V-D7's output; here its first bytes of each block, and POS = 16, CTX = 2. -/
theorem test_hashFinalize :
    let t := ran .hashFinalize { issued .hashFinalize (ops3 0x800 0 0) [] with ctx := .hash }
    t.readBytes 0x800 4 = [0xa5#8, 0xdc#8, 0x9f#8, 0x57#8] ∧ t.readBytes 0x810 4 = [0x68#8, 0x4a#8, 0x5c#8, 0x82#8] ∧
      statusWord t = 0x00100202#32 := by decide +kernel
/-- V-H6 cut to 16 bytes: one block, POS = 16. -/
theorem test_hashFinalizeXof :
    let t := ran .hashFinalizeXof { issued .hashFinalizeXof (ops3 0x800 16 0) [] with ctx := .hash }
    t.readBytes 0x80c 4 = [0x35#8, 0x57#8, 0x6d#8, 0x45#8] ∧ statusWord t = 0x00100202#32 := by decide +kernel
/-- R233: length 0 pads, writes nothing and leaves POS = 0. -/
theorem test_hashFinalizeXof_empty :
    let t := ran .hashFinalizeXof { issued .hashFinalizeXof (ops3 0x800 0 0) [] with ctx := .hash }
    t.dmem = [] ∧ statusWord t = 0x00000202#32 := by decide +kernel
/-- V-H1 by the one-shot HASH: the first bytes of the first block; HASH zeroes S, whatever it held. -/
theorem test_hash :
    let t := ran .hash { issued .hash (ops3 0x100 0 0x800) [] with gimli := vP3, pos := 3#5 }
    t.readBytes 0x800 4 = [0xa5#8, 0xdc#8, 0x9f#8, 0x57#8] := by decide +kernel
/-- R268: the input over the digest. -/
theorem test_hash_overlap : statusWord (stepped (issued .hash (ops3 0x100 16 0x10f) [])) = 0x00000052#32 := by
  decide +kernel

/-- V-A1's layout: key and nonce of zeros at 0x000 and 0x020, empty AAD and buffer, tag at 0x200. -/
def vA1 (tag : List Byte) : State :=
  issued .aeadDecrypt #v[0x000, 0x020, 0x040, 0, 0x100, 0, 0x200, 0]
    (Memory.writeBytes (bytesAt 0 (List.replicate 48 0#8)) 0x200 tag)

/-- S after the AAD pad of V-A1, and S after its message pad; both are checked by `vA1_aad` and `vA1_message`, and the
latter against the spec's tag by `test_aeadEncrypt`. -/
def vA1Aad : Gimli :=
  #v[0x57978648, 0x1764675c, 0x5fe77dff, 0x4ecd88da, 0x4f1dad72, 0xba2998c1, 0x017390e3, 0x333fbace, 0xc538b7fb,
    0xd7501dca, 0x210aaef5, 0x16827e8e]

def vA1Message : Gimli :=
  #v[0x2b61a6ba, 0xb4405c6b, 0x9b2f69f2, 0x33c399dd, 0xa15bc46b, 0xf80a43f4, 0x9cf5c0d4, 0xb70abc46, 0xe5e521c0,
    0x74c0e41a, 0x9afa242c, 0x810ba840]

theorem vA1_aad : absorbPad 0x80#8 { gimli := vP3, pos := 0#5 } 0x01#8 = { gimli := vA1Aad, pos := 0#5 } := by
  decide +kernel

theorem vA1_message : absorbPad 0x80#8 { gimli := vA1Aad, pos := 0#5 } 0x01#8 = { gimli := vA1Message, pos := 0#5 } := by
  decide +kernel

/-- V-A1's tag, as the spec gives it. -/
def vA1Tag : List Byte :=
  [0xc0#8, 0x21#8, 0xe5#8, 0xe5#8, 0x1a#8, 0xe4#8, 0xc0#8, 0x74#8, 0x2c#8, 0x24#8, 0xfa#8, 0x9a#8, 0x40#8, 0xa8#8, 0x0b#8,
    0x81#8]

theorem vA1_inputs (tag : List Byte) (h : tag = vA1Tag ∨ tag = List.replicate 16 0#8) :
    (vA1 tag).readBytes 0x000 32 = List.replicate 32 0#8 ∧ (vA1 tag).readBytes 0x020 16 = List.replicate 16 0#8 ∧
    (vA1 tag).readBytes 0x200 16 = tag ∧ firstError .aeadDecrypt (vA1 tag) = none ∧
    firstError .aeadEncrypt (vA1 tag) = none := by
  obtain rfl | rfl := h <;> decide +kernel

theorem vA1_keyed (tag : List Byte) (h : tag = vA1Tag ∨ tag = List.replicate 16 0#8) :
    (vA1 tag).aeadKeyed = { gimli := vA1Aad, pos := 0#5 } := by
  obtain ⟨hk, hn, -⟩ := vA1_inputs tag h
  have e : gimliOfBytes (List.replicate 16 0#8 ++ List.replicate 32 0#8) = zeroGimli := by decide +kernel
  have k : (vA1 tag).aeadKeyed = absorbPad 0x80#8 (aeadInit ((vA1 tag).readBytes 0x000 32) ((vA1 tag).readBytes 0x020 16))
    0x01#8 := rfl
  rw [k, hk, hn, aeadInit, e, vP3_eq, vA1_aad]

theorem vA1_encrypted (tag : List Byte) (h : tag = vA1Tag ∨ tag = List.replicate 16 0#8) :
    (vA1 tag).aeadEncrypted = ([], { gimli := vA1Message, pos := 0#5 }) ∧
      (vA1 tag).aeadDecrypted = ([], { gimli := vA1Message, pos := 0#5 }) := by
  have e : (vA1 tag).aeadBuffer = [] := rfl
  have p : (vA1 tag).params.padTerm = 0x80#8 := rfl
  simp only [State.aeadEncrypted, State.aeadDecrypted, e, p, vA1_keyed tag h, encryptBytes, decryptBytes, vA1_message,
    Config.domain, and_self]

theorem vA1_tag : tagOf 32 vA1Message = vA1Tag := by decide +kernel

/-- V-A1: AEAD_ENCRYPT writes the tag c021e5e51ae4c0742c24fa9a40a80b81, and scrubs S. -/
theorem test_aeadEncrypt : ∃ t, exec .aeadEncrypt (vA1 (List.replicate 16 0#8)) = .next t ∧
    t.readBytes 0x200 16 = vA1Tag ∧ t.gimli = zeroGimli ∧ t.errcode = .ok := by
  refine ⟨_, exec_aeadEncrypt_ran (vA1_inputs _ (.inr rfl)).2.2.2.2, ?_, by simp, by simp⟩
  have o : (vA1 (List.replicate 16 0#8)).operand 6 = 0x200 := rfl
  have b : (vA1 (List.replicate 16 0#8)).params.tagBase = 32 := rfl
  rw [State.readBytes, State.complete_dmem, State.scrub_dmem, State.writeBytes_dmem, (vA1_encrypted _ (.inr rfl)).1, o, b,
    vA1_tag]
  exact Memory.readBytes_writeBytes_length _ _ (show vA1Tag.length = 16 from rfl)

/-- V-A11a and V-A11e: the tag inside the buffer; and RANGE before OVERLAP. -/
theorem test_aeadEncrypt_rejected :
    statusWord (stepped (issued .aeadEncrypt #v[0x000, 0x020, 0x040, 0, 0x100, 16, 0x108, 0] [])) = 0x00000052#32 ∧
    statusWord (stepped (issued .aeadEncrypt #v[0x000, 0x020, 0xF00, 0x200, 0xF80, 16, 0x200, 0] [])) = 0x00000042#32 := by
  decide +kernel

/-- V-A1 and V-A4f: AEAD_DECRYPT with the right tag gives OK, and with 16 zero bytes AUTH_FAIL. -/
theorem test_aeadDecrypt :
    (∃ t, exec .aeadDecrypt (vA1 vA1Tag) = .next t ∧ t.errcode = .ok) ∧
    ∃ t, exec .aeadDecrypt (vA1 (List.replicate 16 0#8)) = .next t ∧ t.errcode = .authFail := by
  have rt : ∀ tag, ((vA1 tag).writeBytes ((vA1 tag).operand 4) []).readBytes ((vA1 tag).operand 6) Config.tagSize =
    (vA1 tag).readBytes 0x200 16 := fun _ => rfl
  have b : ∀ tag, (vA1 tag).params.tagBase = 32 := fun _ => rfl
  constructor
  · refine ⟨_, exec_aeadDecrypt_ran (vA1_inputs _ (.inl rfl)).2.2.2.1, ?_⟩
    rw [(vA1_encrypted _ (.inl rfl)).2, rt, (vA1_inputs _ (.inl rfl)).2.2.1, b, vA1_tag, if_pos (by decide)]
    simp
  · refine ⟨_, exec_aeadDecrypt_ran (vA1_inputs _ (.inr rfl)).2.2.2.1, ?_⟩
    rw [(vA1_encrypted _ (.inr rfl)).2, rt, (vA1_inputs _ (.inr rfl)).2.2.1, b, vA1_tag, if_neg (by decide)]
    simp

/-- V-A11g: a tag inside the AAD is no overlap for AEAD_DECRYPT (both are only read); V-A11f: one inside the buffer is. -/
theorem test_aeadDecrypt_overlap :
    firstError .aeadDecrypt (issued .aeadDecrypt #v[0x000, 0x020, 0x040, 16, 0x100, 0, 0x040, 0] []) = none ∧
    firstError .aeadDecrypt (issued .aeadDecrypt #v[0x000, 0x020, 0x040, 0, 0x100, 16, 0x108, 0] []) = some .overlap := by
  decide +kernel

/-! ### The host's side -/

/-- R271, R272, R306: a CMD write is accepted, a second one sets OVR, and the first command still runs. -/
theorem test_cmd_write_while_busy :
    let t := hosted (.regWrite 0x00 32 0x02#32) (hosted (.regWrite 0x00 32 0x05#32) State.reset)
    statusWord t = 0x00000005#32 ∧ t.cmd = 0x05#32 ∧ statusWord (stepped t) = 0x00000006#32 := by decide +kernel
/-- R273: writing 6 to STATUS clears DONE and OVR. -/
theorem test_status_clear :
    statusWord (hosted (.regWrite 0x04 32 6#32) { State.reset with done := true, ovr := true }) = 0#32 := by decide
/-- R305, R67, R63, R64: the refused accesses, each by its name. -/
theorem test_host_refusals :
    accessRefused 0x04 8 = some .registerWidth ∧ accessRefused 0x06 32 = some .registerMisaligned ∧
    accessRefused 0x40 32 = some .registerOutsideWindow ∧ accessRefused 0x3C 32 = none ∧
    dmemRefused State.reset 4095 2 = some .dmemOutsideMemory ∧ dmemRefused State.reset 4095 1 = none ∧
    dmemRefused (issued .permute (ops3 0 0 0) []) 0 1 = some .dmemWhileBusy := by decide
/-- R301: a reset that aborts STATE_STORE draws 48 bytes; one that aborts a command with no written region draws none. -/
theorem test_reset_aborts :
    (hosted .assertReset (issued .stateStore (ops3 0x40 0 0) [])).draws = 48 ∧
    (hosted .assertReset (issued .stateStore (ops3 0x40 0 0) [])).busy = false ∧
    (hosted .assertReset (issued .permute (ops3 0 0 0) [])).draws = 0 := by decide +kernel
/-- R313: the host program of R99's `state_xor_byte 47, 0x80`, run to its end in three steps. -/
theorem test_program_runs :
    (State.after 3 { State.reset with program := (expand (.stateXorByte 47 0x80)).getD [] }).map
      (fun t => (t.gimli.toList, t.program, t.replies)) =
    some ([0, 0, 0, 0, 0, 0, 0, 0, 0, 0, 0, 0x80000000], [], [.word 0x00000002#32]) := by decide +kernel

/-! ### Witnesses: for each statement with hypotheses, states and operands that meet them, clause by clause -/

theorem witness_EncodeAfterDecode : decode 0x00FFFF05#32 = .ok (.stateXorByte 0xFF#8 0xFF#8) := by decide

theorem witness_OneRowDecidesAWord :
    (∃ r ∈ opcodeTable, 0x00001F11#32 &&& r.mask = r.pattern ∧ (.duplexAbsorbPad 0x1F#8) = r.instr 0x00001F11#32) ∧
    (∀ r ∈ opcodeTable, 0x01000001#32 &&& r.mask ≠ r.pattern) ∧
    (decode 0x00001F11#32 = .ok (.duplexAbsorbPad 0x1F#8) ∧ imm8Field 0x00001F11#32 ≠ 0#8) ∧
    (decode 0x00010005#32 = .ok (.stateXorByte 1#8 0#8) ∧ idxField 0x00010005#32 ≠ 0#8) := by decide

/-- A state whose command word no row matches, and one whose word does. -/
theorem witness_IllegalWordsAreRejected :
    ((State.reset.accept 0#32).latch = some ⟨0#32, State.reset.a⟩ ∧ (State.reset.accept 0#32).mover = .engine ∧
      decode 0#32 = .error .unassignedOpcode) ∧
    ((State.reset.accept 2#32).latch = some ⟨2#32, State.reset.a⟩ ∧ (State.reset.accept 2#32).mover = .engine ∧
      decode 2#32 = .ok .stateZero ∧
      step (State.reset.accept 2#32) = .next (ran .stateZero (State.reset.accept 2#32))) :=
  ⟨⟨rfl, by decide, by decide⟩, rfl, by decide, by decide, exec_ran .stateZero (State.reset.accept 2#32)⟩

theorem witness_PseudoInstructionsExpand :
    (255 < 256 ∧ 255 < 256) ∧ (2 ^ 32 - 1 < 2 ^ 32 ∧ 0 < 2 ^ 32) ∧ (AsmLine.wf (.stateXorByte 256 0) = false) ∧
    (AsmLine.wf (.hash (2 ^ 32 - 1) 0 (2 ^ 32 - 1)) = true) ∧ (AsmLine.wf (.hash 0 0 (2 ^ 32)) = false) := by decide

/-- The engine moves alone, by its turn, and when the turns are used up. -/
theorem witness_StepRunsTheLatchedCommand :
    let s := issued .permute (ops3 0 0 0) []
    s.latch = some ⟨1#32, ops3 0 0 0⟩ ∧ decode 1#32 = .ok .permute ∧ s.mover = .engine ∧
    ({ s with program := [.poll], turns := [.engine] } : State).mover = .engine ∧
    ({ s with program := [.poll] } : State).mover = .engine := by decide

theorem witness_StepRunsTheHostProgram :
    let s := State.reset
    let b := issued .permute (ops3 0 0 0) []
    (({ s with program := [.poll] } : State).mover = .host) ∧
    (({ b with program := [.poll], turns := [.host] } : State).mover = .host) ∧
    (s.latch = none ∧ s.program = []) ∧ (b.latch ≠ none ∧ b.program = []) := by decide

theorem witness_SpBoxActsOnOneColumn :
    (3 < 4 ∧ 0x01000000#32 = (wordAt #v[0, 0, 0, 1, 0, 0, 0, 0, 0, 0, 0, 7] 3 <<< 24) |||
      (wordAt #v[0, 0, 0, 1, 0, 0, 0, 0, 0, 0, 0, 7] 3 >>> 8)) ∧
    (0 < 4 ∧ 3 < 4 ∧ 0 ≠ 3) ∧
    ∀ y, y < 3 → matrixAt #v[5, 1, 1, 1, 6, 1, 1, 1, 7, 1, 1, 1] y 0 = matrixAt #v[5, 2, 2, 2, 6, 2, 2, 2, 7, 2, 2, 2] y 0 := by
  decide +kernel

theorem witness_LinearLayerByRound : 24 % 4 = 0 ∧ 22 % 4 = 2 ∧ (23 % 4 = 1 ∨ 23 % 4 = 3) ∧ (1 % 4 = 1 ∨ 1 % 4 = 3) := by
  decide

theorem witness_RoundScheduleOfP : 24 ∈ [24, 20, 16, 12, 8, 4] ∧ 2 ∈ [22, 18, 14, 10, 6, 2] ∧
    1 ∈ [23, 21, 19, 17, 15, 13, 11, 9, 7, 5, 3, 1] := by decide

theorem witness_ByteAndWordViewsAlias : 11 < 12 ∧ 47 < 48 ∧ 3 < 4 ∧ byteAt (setByteAt zeroGimli 47 0x80#8) 47 = 0x80#8 := by
  decide +kernel

theorem witness_AbsorbByteAtEachPosition : (16#5 = 16#5) ∧ (15#5).toNat < 16 ∧ (14#5).toNat < 15 ∧ (0#5).toNat < 15 := by
  decide

theorem witness_AbsorbPadXorsDomainAndTerminator : (15#5).toNat ≤ 15 ∧ (0#5).toNat ≤ 15 ∧ (0x80#8) = 0x80#8 := by decide

theorem witness_SqueezeIsLazy : (15#5).toNat < 16 := by decide

theorem witness_AbsorbAgreesWithBlockRule :
    (List.replicate 16 (1#8 : Byte)).length ≤ 16 ∧ (List.replicate 16 (1#8 : Byte)).length = 16 ∧
    (List.replicate 15 (1#8 : Byte)).length < 16 ∧ (0 : Nat) < (List.replicate 15 (1#8 : Byte)).length := by decide

/-- The pieces 01 02 and 03 of 01 02 03; and squeezes of 10 and 6 bytes against one of 16. -/
theorem witness_AbsorbAndSqueezeConcatenate :
    (let m := bytesAt 0x100 [1#8, 2#8, 3#8]
     let s₁ := issued .duplexAbsorb (ops3 0x100 2 0) m
     let t₁ := ran .duplexAbsorb s₁
     let s₂ : State := { issued .duplexAbsorb (ops3 0x102 1 0) m with gimli := t₁.gimli, pos := t₁.pos }
     let r := issued .duplexAbsorb (ops3 0x100 3 0) m
     t₁.errcode = .ok ∧ (ran .duplexAbsorb s₂).errcode = .ok ∧ r.gimli = s₁.gimli ∧ r.pos = s₁.pos ∧
     (ran .duplexAbsorb r).errcode = .ok ∧
     r.readBytes (r.operand 0) (r.operand 1) =
       s₁.readBytes (s₁.operand 0) (s₁.operand 1) ++ s₂.readBytes (s₂.operand 0) (s₂.operand 1)) ∧
    (let s₁ := issued .duplexSqueeze (ops3 0x200 10 0) []
     let t₁ := ran .duplexSqueeze s₁
     let s₂ : State := { issued .duplexSqueeze (ops3 0x300 6 0) [] with gimli := t₁.gimli, pos := t₁.pos }
     let r := issued .duplexSqueeze (ops3 0x200 16 0) []
     t₁.errcode = .ok ∧ (ran .duplexSqueeze s₂).errcode = .ok ∧ r.gimli = s₁.gimli ∧ r.pos = s₁.pos ∧
     (ran .duplexSqueeze r).errcode = .ok ∧ r.operand 1 = s₁.operand 1 + s₂.operand 1) := by decide +kernel

theorem witness_StateLoadCommand :
    (issued .stateLoad (ops3 4048 0 0) []).operand 0 + 48 ≤ (issued .stateLoad (ops3 4048 0 0) []).params.dmemSize ∧
    (issued .stateLoad (ops3 4049 0 0) []).params.dmemSize < (issued .stateLoad (ops3 4049 0 0) []).operand 0 + 48 := by
  decide

theorem witness_StateStoreCommand :
    (issued .stateStore (ops3 4048 0 0) []).operand 0 + 48 ≤ (issued .stateStore (ops3 4048 0 0) []).params.dmemSize ∧
    (issued .stateStore (ops3 4049 0 0) []).params.dmemSize < (issued .stateStore (ops3 4049 0 0) []).operand 0 + 48 ∧
    ¬Inside 4047 4048 48 := by decide

theorem witness_StateXorByteCommand : (47#8 : Byte).toNat < 48 ∧ 48 ≤ (48#8 : Byte).toNat := by decide

/-- Three regions: at the top of DMEM, of length 0 at the top of the 32-bit space, and one byte too long. -/
theorem witness_DuplexAbsorbCommand :
    (let s := issued .duplexAbsorb (ops3 4093 3 0) []; InRange s (s.operand 0) (s.operand 1)) ∧
    (let s := issued .duplexAbsorb (ops3 0xFFFFFFFF 0 0) []; InRange s (s.operand 0) (s.operand 1)) ∧
    (let s := issued .duplexAbsorb (ops3 4093 4 0) []; ¬InRange s (s.operand 0) (s.operand 1)) := by decide

theorem witness_DuplexSqueezeCommand :
    (let s := issued .duplexSqueeze (ops3 4093 3 0) []; InRange s (s.operand 0) (s.operand 1)) ∧
    (let s := issued .duplexSqueeze (ops3 0xFFFFFFFF 0 0) []; InRange s (s.operand 0) (s.operand 1)) ∧
    (let s := issued .duplexSqueeze (ops3 4093 4 0) []; ¬InRange s (s.operand 0) (s.operand 1)) := by decide

theorem witness_AeadInitLoadsNonceAndKey :
    (List.replicate 32 (1#8 : Byte)).length = 32 ∧ (List.replicate 16 (2#8 : Byte)).length = 16 := by decide

theorem witness_MessageByteGoesThroughTheRate : (15#5).toNat ≤ 15 ∧ (0#5).toNat ≤ 15 := by decide

/-- Five regions that fill DMEM, each ending where the next begins. -/
def packed (i : Instr) : State := issued i #v[0, 32, 48, 16, 64, 4016, 4080, 0] []

theorem witness_AeadEncryptCommand : ∃ (k : Sponge) (r : List Byte × Sponge),
    let s := packed .aeadEncrypt
    InRange s (s.operand 0) 32 ∧ InRange s (s.operand 1) 16 ∧ InRange s (s.operand 2) (s.operand 3) ∧
    InRange s (s.operand 4) (s.operand 5) ∧ InRange s (s.operand 6) 16 ∧
    Apart (s.operand 4) (s.operand 5) (s.operand 0) 32 ∧ Apart (s.operand 4) (s.operand 5) (s.operand 1) 16 ∧
    Apart (s.operand 4) (s.operand 5) (s.operand 2) (s.operand 3) ∧
    Apart (s.operand 4) (s.operand 5) (s.operand 6) 16 ∧ Apart (s.operand 6) 16 (s.operand 0) 32 ∧
    Apart (s.operand 6) 16 (s.operand 1) 16 ∧ Apart (s.operand 6) 16 (s.operand 2) (s.operand 3) ∧
    k = absorbPad s.params.padTerm
      (absorb (aeadInit (Memory.readBytes s.dmem (s.operand 0) 32) (Memory.readBytes s.dmem (s.operand 1) 16))
        (Memory.readBytes s.dmem (s.operand 2) (s.operand 3))) 0x01#8 ∧
    r = encryptBytes k (Memory.readBytes s.dmem (s.operand 4) (s.operand 5)) :=
  ⟨_, _, by decide, by decide, by decide, by decide, by decide, by decide, by decide, by decide, by decide, by decide,
    by decide, by decide, rfl, rfl⟩

/-- V-A1 with the right tag, and with 16 zero bytes. -/
theorem witness_AeadDecryptCommand : ∀ s ∈ [vA1 vA1Tag, vA1 (List.replicate 16 0#8)],
    InRange s (s.operand 0) 32 ∧ InRange s (s.operand 1) 16 ∧ InRange s (s.operand 2) (s.operand 3) ∧
    InRange s (s.operand 4) (s.operand 5) ∧ InRange s (s.operand 6) 16 ∧
    Apart (s.operand 4) (s.operand 5) (s.operand 0) 32 ∧ Apart (s.operand 4) (s.operand 5) (s.operand 1) 16 ∧
    Apart (s.operand 4) (s.operand 5) (s.operand 2) (s.operand 3) ∧
    Apart (s.operand 4) (s.operand 5) (s.operand 6) 16 := by decide +kernel

/-- The tag clause of AEAD_DECRYPT: V-A1's tag is the computed one, 16 zero bytes are not. -/
theorem witness_AeadDecryptCommand_tag : ∃ tag : List Byte,
    tag = gimliBytes (vA1 vA1Tag).aeadDecrypted.2.gimli 32 16 ∧
    Memory.readBytes (vA1 vA1Tag).dmem ((vA1 vA1Tag).operand 6) 16 = tag ∧
    tag = gimliBytes (vA1 (List.replicate 16 0#8)).aeadDecrypted.2.gimli 32 16 ∧
    Memory.readBytes (vA1 (List.replicate 16 0#8)).dmem ((vA1 (List.replicate 16 0#8)).operand 6) 16 ≠ tag := by
  refine ⟨vA1Tag, ?_, (vA1_inputs _ (.inl rfl)).2.2.1, ?_, ?_⟩
  · rw [(vA1_encrypted _ (.inl rfl)).2]; exact vA1_tag.symm
  · rw [(vA1_encrypted _ (.inr rfl)).2]; exact vA1_tag.symm
  · exact fun h => absurd ((vA1_inputs _ (.inr rfl)).2.2.1.symm.trans h) (by decide)

theorem witness_TagComparisonIsEquality : vA1Tag.length = 16 ∧ (List.replicate 16 (0#8 : Byte)).length = 16 := by decide

theorem witness_AeadRoundTrip :
    let s := vA1 (List.replicate 16 0#8)
    let t := ran .aeadEncrypt s
    exec .aeadEncrypt s = .next t ∧ t.errcode = .ok ∧ ({ t with latch := s.latch } : State).params = t.params ∧
      ({ t with latch := s.latch } : State).dmem = t.dmem ∧
      ∀ i, ({ t with latch := s.latch } : State).operand i = s.operand i :=
  ⟨exec_ran _ _, by decide +kernel, rfl, rfl, fun _ => rfl⟩

/-- A hash in progress with its region at the top of DMEM, one too long, and no hash in progress. -/
theorem witness_HashUpdateCommand :
    (let s : State := { issued .hashUpdate (ops3 4093 3 0) [] with ctx := .hash }
     s.ctx = .hash ∧ InRange s (s.operand 0) (s.operand 1)) ∧
    (let s := issued .hashUpdate (ops3 4093 3 0) []; s.ctx ≠ .hash) ∧
    (let s : State := { issued .hashUpdate (ops3 4093 4 0) [] with ctx := .hash }
     s.ctx = .hash ∧ ¬InRange s (s.operand 0) (s.operand 1)) := by decide

theorem witness_HashFinalizeCommand : ∃ g : Gimli,
    let s : State := { issued .hashFinalize (ops3 4064 0 0) [] with ctx := .hash }
    let r : State := { issued .hashFinalize (ops3 4065 0 0) [] with ctx := .hash }
    (g = (absorbPad s.params.padTerm { gimli := s.gimli, pos := s.pos } 0x01#8).gimli ∧ s.ctx = .hash ∧
      s.operand 0 + 32 ≤ s.params.dmemSize) ∧
    (g = (absorbPad r.params.padTerm { gimli := r.gimli, pos := r.pos } 0x01#8).gimli ∧ r.ctx = .hash ∧
      r.params.dmemSize < r.operand 0 + 32) ∧
    ({ s with ctx := .hashFinal } : State).ctx ≠ .hash :=
  ⟨_, ⟨rfl, by decide, by decide⟩, ⟨rfl, by decide, by decide⟩, by decide⟩

theorem witness_HashFinalizeXofCommand : ∃ d : Sponge,
    let s : State := { issued .hashFinalizeXof (ops3 4056 40 0) [] with ctx := .hash }
    let r : State := { issued .hashFinalizeXof (ops3 4057 40 0) [] with ctx := .hash }
    (d = absorbPad s.params.padTerm { gimli := s.gimli, pos := s.pos } 0x01#8 ∧ s.ctx = .hash ∧
      InRange s (s.operand 0) (s.operand 1)) ∧
    (d = absorbPad r.params.padTerm { gimli := r.gimli, pos := r.pos } 0x01#8 ∧ r.ctx = .hash ∧
      ¬InRange r (r.operand 0) (r.operand 1)) ∧
    ({ s with ctx := .none } : State).ctx ≠ .hash :=
  ⟨_, ⟨rfl, by decide, by decide⟩, ⟨rfl, by decide, by decide⟩, by decide⟩

/-- Input and digest side by side at the top of DMEM; the digest one byte too high; and the digest one byte too low, over
the input. -/
theorem witness_HashCommand : ∃ g : State → Gimli,
    (let s := issued .hash (ops3 4000 64 4064) []
     g s = (absorbPad s.params.padTerm (absorb { gimli := Vector.replicate 12 0#32, pos := 0#5 }
       (Memory.readBytes s.dmem (s.operand 0) (s.operand 1))) 0x01#8).gimli ∧
     InRange s (s.operand 0) (s.operand 1) ∧ s.operand 2 + 32 ≤ s.params.dmemSize ∧
     Apart (s.operand 0) (s.operand 1) (s.operand 2) 32) ∧
    (let s := issued .hash (ops3 4000 64 4065) []
     ¬InRange s (s.operand 0) (s.operand 1) ∨ s.params.dmemSize < s.operand 2 + 32) ∧
    (let s := issued .hash (ops3 4000 64 4063) []
     InRange s (s.operand 0) (s.operand 1) ∧ s.operand 2 + 32 ≤ s.params.dmemSize ∧
     ¬Apart (s.operand 0) (s.operand 1) (s.operand 2) 32) :=
  ⟨fun s => (absorbPad s.params.padTerm (absorb { gimli := Vector.replicate 12 0#32, pos := 0#5 }
       (Memory.readBytes s.dmem (s.operand 0) (s.operand 1))) 0x01#8).gimli,
    ⟨rfl, by decide, by decide, by decide⟩, by decide, by decide, by decide, by decide⟩

/-- DMEM with the bytes 61 62 63 at 0x100. -/
def abc : List Host.Cell := bytesAt 0x100 [0x61#8, 0x62#8, 0x63#8]

/-- The states a chunked hash of 61 62 63 leaves: after HASH_INIT, an update with 61 62, and one with 63. -/
def chunkDone : Nat → State
  | 0 => ran .hashInit (issued .hashInit (ops3 0 0 0) abc)
  | 1 => ran .hashUpdate { chunkDone 0 with latch := some ⟨0x31#32, ops3 0x100 2 0⟩ }
  | k + 2 => ran .hashUpdate { chunkDone (k + 1) with latch := some ⟨0x31#32, ops3 0x102 1 0⟩ }

/-- The states its two updates start in. -/
def chunkStart (k : Nat) : State :=
  { chunkDone k with latch := some ⟨0x31#32, if k = 0 then ops3 0x100 2 0 else ops3 0x102 1 0⟩ }

/-- HASH_INIT, n = 2 updates with 61 62 and 63, and HASH_FINALIZE, against HASH of 61 62 63. -/
theorem witness_ChunkedHashEqualsOneShot :
    let f : State := { chunkDone 2 with latch := some ⟨0x32#32, ops3 0x800 0 0⟩ }
    let r := issued .hash (ops3 0x100 3 0x800) abc
    exec .hashInit (issued .hashInit (ops3 0 0 0) abc) = .next (chunkDone 0) ∧
    (∀ k, k < 2 → (chunkStart k).gimli = (chunkDone k).gimli ∧ (chunkStart k).pos = (chunkDone k).pos ∧
      (chunkStart k).ctx = (chunkDone k).ctx ∧ exec .hashUpdate (chunkStart k) = .next (chunkDone (k + 1)) ∧
      (chunkDone (k + 1)).errcode = .ok) ∧
    (f.gimli = (chunkDone 2).gimli ∧ f.pos = (chunkDone 2).pos ∧ f.ctx = (chunkDone 2).ctx) ∧
    (exec .hashFinalize f = .next (ran .hashFinalize f) ∧ (ran .hashFinalize f).errcode = .ok) ∧
    (exec .hash r = .next (ran .hash r) ∧ (ran .hash r).errcode = .ok) ∧ r.params = f.params ∧
    r.readBytes (r.operand 0) (r.operand 1) = (List.range 2).flatMap (fun k =>
      (chunkStart k).readBytes ((chunkStart k).operand 0) ((chunkStart k).operand 1)) := by
  refine ⟨exec_ran _ _, fun k hk => ?_, ⟨rfl, rfl, rfl⟩, ⟨exec_ran _ _, by decide +kernel⟩,
    ⟨exec_ran _ _, by decide +kernel⟩, by decide +kernel, by decide +kernel⟩
  obtain rfl | rfl : k = 0 ∨ k = 1 := by omega
  · exact ⟨rfl, rfl, rfl, exec_ran _ (chunkStart 0), by decide +kernel⟩
  · exact ⟨rfl, rfl, rfl, exec_ran _ (chunkStart 1), by decide +kernel⟩

theorem witness_XofPrefix :
    let s : State := { issued .hashFinalizeXof (ops3 0x800 8 0) [] with ctx := .hash }
    let r : State := { issued .hashFinalizeXof (ops3 0x900 40 0) [] with ctx := .hash }
    let u : State := { issued .hashFinalizeXof (ops3 0x800 32 0) [] with ctx := .hash }
    (ran .hashFinalizeXof s).errcode = .ok ∧ (ran .hashFinalizeXof r).errcode = .ok ∧
    (ran .hashFinalizeXof u).errcode = .ok ∧ (ran .hashFinalize u).errcode = .ok ∧
    r.gimli = s.gimli ∧ r.pos = s.pos ∧ r.params = s.params ∧ s.operand 1 ≤ r.operand 1 ∧ u.operand 1 = 32 := by
  decide +kernel

theorem witness_CtxTransitions :
    (firstError .stateLoad (issued .stateLoad (ops3 4049 0 0) []) ≠ none) ∧
    (firstError .stateLoad (issued .stateLoad (ops3 4048 0 0) []) = none) ∧
    ((issued .hashUpdate (ops3 0 0 0) []).ctx ≠ .hash) ∧
    exec .hashUpdate (issued .hashUpdate (ops3 0 0 0) []) = .next (ran .hashUpdate (issued .hashUpdate (ops3 0 0 0) [])) ∧
    (ran .hashInit State.reset).ctx = .hash ∧ State.reset.ctx ≠ .hash :=
  ⟨by decide, by decide, by decide, exec_ran _ _, by decide, by decide⟩

theorem witness_RejectionOnlyCompletes :
    (let s := State.reset.accept 0#32
     s.latch = some ⟨0#32, s.a⟩ ∧ s.mover = .engine ∧ decode 0#32 = .error .unassignedOpcode) ∧
    (State.reset.accept 0#32).CmdIsLatched ∧
    (let s := issued .stateLoad (ops3 4049 0 0) []
     s.latch = some ⟨3#32, s.a⟩ ∧ s.mover = .engine ∧ decode 3#32 = .ok .stateLoad ∧
       firstError .stateLoad s = some .range) ∧
    (issued .stateLoad (ops3 4049 0 0) []).CmdIsLatched :=
  ⟨by decide, fun _ h => by cases h; rfl, by decide, fun _ h => by cases h; rfl⟩

/-- For each clause, a command and a state in which exactly the checks named fail (the four conditions are their own
definitions, so the four equivalences hold by `Iff.rfl`). -/
theorem witness_ChecksRunInOrder :
    (48 ≤ (48#8 : Byte).toNat) ∧
    ((issued .hashUpdate (ops3 4093 4 0) []).ctx ≠ .hash) ∧
    (let s : State := { issued .hashUpdate (ops3 4093 4 0) [] with ctx := .hash }
     s.ctx = .hash ∧ ∃ g ∈ regions .hashUpdate s, ¬InRange s g.addr g.len) ∧
    (let s := issued .hash (ops3 0x100 16 0x10f) []
     (∀ g ∈ regions .hash s, InRange s g.addr g.len) ∧ ¬(regions .hash s).Pairwise fun g h =>
       (g.access = .r ∧ h.access = .r) ∨ Apart g.addr g.len h.addr h.len) ∧
    (let s := issued .hash (ops3 0x100 16 0x110) []
     (∀ g ∈ regions .hash s, InRange s g.addr g.len) ∧ (regions .hash s).Pairwise fun g h =>
       (g.access = .r ∧ h.access = .r) ∨ Apart g.addr g.len h.addr h.len) := by decide

theorem witness_OverlapPairs :
    (∀ a ∈ [packed .aeadEncrypt, issued .aeadEncrypt #v[0x000, 0x020, 0x040, 0, 0x100, 16, 0x108, 0] []],
      InRange a (a.operand 0) 32 ∧ InRange a (a.operand 1) 16 ∧ InRange a (a.operand 2) (a.operand 3) ∧
      InRange a (a.operand 4) (a.operand 5) ∧ InRange a (a.operand 6) 16) ∧
    (∀ a ∈ [issued .hash (ops3 0x100 16 0x110) [], issued .hash (ops3 0x100 16 0x10f) []],
      InRange a (a.operand 0) (a.operand 1) ∧ InRange a (a.operand 2) 32) ∧
    (Instr.permute ≠ .aeadEncrypt ∧ Instr.permute ≠ .aeadDecrypt ∧ Instr.permute ≠ .hash) := by decide

theorem witness_CommandsKeepOtherRegisters :
    exec .permute State.reset = .next (ran .permute State.reset) := exec_ran _ _

/-- An address below and one above the digest of HASH_FINALIZE; and PERMUTE, which has no region. -/
theorem witness_CommandsWriteOnlyTheirRegions :
    let s := issued .hashFinalize (ops3 0x800 0 0) []
    (∀ a ∈ [0x7ff, 0x820], ∀ g ∈ regions .hashFinalize s, g.access = .r ∨ ¬Inside a g.addr g.len) ∧
    (∀ g ∈ regions .permute s, g.access = .r) ∧ (∀ g ∈ regions .stateLoad s, g.access = .r) := by decide

theorem witness_LatchIsolatesTheCommand :
    let s := issued .stateStore (ops3 0x40 0 0) []
    s.latch = some ⟨4#32, ops3 0x40 0 0⟩ ∧
    hostOp (.regWrite 0x20 32 0x80#32) s = .next (s.writeOperand 0 0x80#32) ∧
    hostOp (.regWrite 0x00 32 1#32) s = .next { s with ovr := true } ∧
    exec .stateStore s = .next (ran .stateStore s) := ⟨rfl, rfl, rfl, exec_ran _ _⟩

theorem witness_CmdWriteIdleAndBusy : State.reset.busy = false ∧ (issued .permute (ops3 0 0 0) []).busy = true := by decide

theorem witness_RegisterWritesReadBack : (1 : Fin 8) ≠ 0 ∧ 0x0C ∈ [0x0C, 0x10, 0x14, 0x18, 0x1C] ∧
    0x1C ∈ [0x0C, 0x10, 0x14, 0x18, 0x1C] := by decide

/-- The last byte of DMEM, an empty access above it, one byte above it, and an access while a command is in flight. -/
theorem witness_HostDmemAccess :
    (State.reset.busy = false ∧ InRange State.reset 4095 [1#8].length ∧ InRange State.reset 5000 ([] : List Byte).length ∧
      ¬Inside 4094 4095 1 ∧ ¬InRange State.reset 4096 1) ∧ (issued .permute (ops3 0 0 0) []).busy = true := by decide

theorem witness_InterruptFollowsDone :
    let s : State := { State.reset with ie := true, done := true, program := [.regWrite 0x00 32 1#32] }
    let e : State := { issued .permute (ops3 0 0 0) [] with ie := true }
    State.reset.busy = false ∧ (0x00000002#32).getLsbD 1 = true ∧
    hostOp (.regWrite 0x00 32 1#32) State.reset = .next (State.reset.accept 1#32) ∧
    hostOp (.regWrite 0x04 32 2#32) State.reset = .next (State.reset.clearStatus 2#32) ∧
    exec .permute State.reset = .next (ran .permute State.reset) ∧
    (step s = .next (({ s with program := [] } : State).accept 1#32) ∧ s.irq = true ∧ (stepped s).irq = false) ∧
    (step e = .next (ran .permute e) ∧ e.irq = false ∧ (ran .permute e).irq = true) :=
  ⟨by decide, by decide, rfl, rfl, exec_ran _ _, ⟨rfl, by decide, by decide⟩,
    exec_ran .permute _, by decide, by decide +kernel⟩

theorem witness_ResetValues : State.reset.busy = false := by decide

/-- STATE_STORE in flight at its highest address, one that would be rejected, and an illegal word in flight. -/
theorem witness_ResetAbortsTheCommand :
    let s := issued .stateStore (ops3 4048 0 0) []
    let r := issued .stateStore (ops3 4049 0 0) []
    let w := State.reset.accept 0#32
    (s.latch = some ⟨4#32, ops3 4048 0 0⟩ ∧ decode 4#32 = .ok .stateStore ∧ firstError .stateStore s = none ∧
      (∃ g ∈ regions .stateStore s, g.access ≠ .r ∧ Inside 4095 g.addr g.len) ∧
      ∀ g ∈ regions .stateStore s, g.access = .r ∨ ¬Inside 4047 g.addr g.len) ∧
    (r.latch = some ⟨4#32, ops3 4049 0 0⟩ ∧ firstError .stateStore r ≠ none) ∧
    (w.latch = some ⟨0#32, w.a⟩ ∧ decode 0#32 = .error .unassignedOpcode) := by decide

/-- From reset with a command accepted, the engine's step. -/
theorem witness_StepKeepsInvariant :
    (issued .permute (ops3 0 0 0) []).Inv ∧
    step (issued .permute (ops3 0 0 0) []) = .next (ran .permute (issued .permute (ops3 0 0 0) [])) :=
  ⟨⟨by decide, by decide, by decide, fun _ h => by cases h; rfl⟩,
    exec_ran .permute (issued .permute (ops3 0 0 0) [])⟩

/-- The idle machine, and from each group of refused accesses one that ends a run. -/
theorem witness_OnlyHostAccessesStopARun :
    step State.reset = .next State.reset ∧ State.reset.mover ≠ .host ∧
    step { State.reset with program := [.regRead 0x40 32] } = .refused .registerOutsideWindow ∧
    step { State.reset with program := [.memRead 4096 1] } = .refused .dmemOutsideMemory ∧
    step { State.reset with program := [.secondHost] } = .refused .secondHost := ⟨rfl, by decide, rfl, rfl, rfl⟩

/-- A POLL with a command in flight and two contested turns left; and one while idle. -/
theorem witness_EveryPollEnds :
    (let s : State := { issued .permute (ops3 0 0 0) [] with program := [.poll], turns := [.host, .host] }
     s.busy = true ∧ s.program = .poll :: [] ∧ s.turns.length = 2) ∧
    (let s : State := { State.reset with program := [.poll, .poll] }
     s.busy = false ∧ s.program = .poll :: [.poll]) := by decide

end Sys2Proof.Tests
end

section
/-! PROOFS. The step and the host's operations, said once: what each can answer (20_memory.md R63-R67, R75, R78). -/

namespace Sys2Proof.Machine

variable {s t : State}

/-- The host moves only when it has an operation left (R78, R282). -/
theorem State.program_ne_nil_of_mover (h : s.mover = .host) : s.program ≠ [] := by
  intro hp
  simp only [State.mover, hp, List.isEmpty_nil, if_true] at h
  split at h <;> cases h

/-- What a step that goes on has done: nothing, the host's next operation, the latched command, or the rejection of an
illegal word (R75, R78, R96, R282). -/
theorem step_cases (h : step s = .next t) :
    (s.mover = .nobody ∧ t = s) ∨
    (s.mover = .host ∧ ∃ op rest, s.program = op :: rest ∧
      hostOp op { s.takeTurn with program := rest } = .next t) ∨
    (s.mover = .engine ∧ ∃ i, s.takeTurn.fetched = some i ∧ exec i s.takeTurn = .next t) ∨
    (s.mover = .engine ∧ s.takeTurn.fetched = none ∧ t = s.takeTurn.complete .illegal) := by
  unfold step at h
  split at h
  · next hm => exact .inl ⟨hm, (Host.Outcome.next.inj h).symm⟩
  · next hm =>
    unfold hostStep at h
    split at h
    · next hp =>
      rw [State.takeTurn_program] at hp
      exact absurd hp (State.program_ne_nil_of_mover hm)
    · next op rest hp => exact .inr (.inl ⟨hm, op, rest, by rw [← hp, State.takeTurn_program], h⟩)
  · next hm =>
    split at h
    · next i hi => exact .inr (.inr (.inl ⟨hm, i, hi, h⟩))
    · next hn => exact .inr (.inr (.inr ⟨hm, hn, (Host.Outcome.next.inj h).symm⟩))

/-- Bits 3:0 of STATUS: BUSY, DONE, OVR and a reserved 0 (R38). -/
theorem flagBits_statusWord (s : State) :
    (statusWord s).getLsbD 0 = s.busy ∧ (statusWord s).getLsbD 1 = s.done ∧ (statusWord s).getLsbD 2 = s.ovr ∧
      (statusWord s).getLsbD 3 = false := by
  simp [statusWord]

theorem hostOp_regWrite_iff {off width : Nat} {v : Word} :
    hostOp (.regWrite off width v) s = .next t ↔ accessRefused off width = none ∧ t = s.writeReg (regAt off) v := by
  simp only [hostOp]
  cases accessRefused off width <;> simp [eq_comm]

theorem hostOp_regRead_iff {off width : Nat} :
    hostOp (.regRead off width) s = .next t ↔
      accessRefused off width = none ∧ t = s.reply (.word (s.readReg (regAt off))) := by
  simp only [hostOp]
  cases accessRefused off width <;> simp [eq_comm]

theorem hostOp_memWrite_iff {addr : Nat} {bs : List Byte} :
    hostOp (.memWrite addr bs) s = .next t ↔ dmemRefused s addr bs.length = none ∧ t = s.writeBytes addr bs := by
  simp only [hostOp]
  cases dmemRefused s addr bs.length <;> simp [eq_comm]

theorem hostOp_memRead_iff {addr len : Nat} :
    hostOp (.memRead addr len) s = .next t ↔
      dmemRefused s addr len = none ∧ t = s.reply (.bytes (s.readBytes addr len)) := by
  simp only [hostOp]
  cases dmemRefused s addr len <;> simp [eq_comm]

/-- A POLL while BUSY = 1 reads STATUS and stays in the program (R98). -/
theorem hostOp_poll_of_busy (h : s.busy = true) :
    hostOp .poll s = .next { s.reply (.word (statusWord s)) with program := .poll :: s.program } := by
  simp only [hostOp, State.readReg, (flagBits_statusWord s).1, h, if_true, State.reply_program]

/-- A POLL while BUSY = 0 reads STATUS once and is over (R98). -/
theorem hostOp_poll_of_idle (h : s.busy = false) : hostOp .poll s = .next (s.reply (.word (statusWord s))) := by
  simp only [hostOp, State.readReg, (flagBits_statusWord s).1, h, Bool.false_eq_true, if_false]

theorem hostOp_assertReset_iff : hostOp .assertReset s = .next t ↔ t = s.assertReset := by
  simp [hostOp, eq_comm]

/-- A 32-bit access at an aligned offset of the window is not refused (R63, R64). -/
theorem accessRefused_eq_none_iff {off width : Nat} :
    accessRefused off width = none ↔ width = 32 ∧ off % 4 = 0 ∧ off < 0x40 := by
  unfold accessRefused
  split_ifs with hw ho hb
  · simp [hw]
  · simp [ho]
  · simp [Nat.not_lt.2 hb]
  · simp only [true_iff]; omega

/-- A DMEM access is done exactly while BUSY = 0 and inside DMEM (R67, R305). -/
theorem dmemRefused_eq_none_iff {addr len : Nat} :
    dmemRefused s addr len = none ↔ s.busy = false ∧ InRange s addr len := by
  unfold dmemRefused
  split_ifs with hb hr
  · simp [hb]
  · simp only [false_iff]; omega
  · simp only [true_iff]; exact ⟨Bool.eq_false_of_not_eq_true hb, by omega⟩

/-- While a command is in flight a CMD write is discarded and sets OVR (R272). -/
theorem State.writeCmd_of_busy (h : s.busy = true) (v : Word) : s.writeCmd v = { s with ovr := true } := if_pos h

/-- While none is in flight a CMD write is accepted (R271). -/
theorem State.writeCmd_of_idle (h : s.busy = false) (v : Word) : s.writeCmd v = s.accept v := by
  simp [State.writeCmd, h]

end Sys2Proof.Machine
end

section
/-! PROOFS. POS in 0..16 and DMEM inside its size (10_state.md R34, 20_memory.md R66): each update of the state a
command makes keeps both. -/

namespace Sys2Proof.Machine

variable {s t : State}

/-- The part of the invariant that speaks of what commands write: POS and DMEM (R34, R66). -/
structure State.DataLegal (s : State) : Prop where
  pos : s.PosLegal
  mem : s.MemLegal

theorem State.Inv.dataLegal (h : s.Inv) : s.DataLegal := ⟨h.pos, h.mem⟩

theorem State.DataLegal.setGimli (h : s.DataLegal) (g : Gimli) : (s.setGimli g).DataLegal := ⟨h.pos, h.mem⟩

theorem State.DataLegal.setCtx (h : s.DataLegal) (c : Ctx) : (s.setCtx c).DataLegal := ⟨h.pos, h.mem⟩

theorem State.DataLegal.setSponge (h : s.DataLegal) {d : Sponge} (hd : d.pos.toNat ≤ 16) :
    (s.setSponge d).DataLegal := ⟨hd, h.mem⟩

theorem State.DataLegal.writeBytes (h : s.DataLegal) {a : Nat} {bs : List Byte} (hr : InRange s a bs.length) :
    (s.writeBytes a bs).DataLegal :=
  ⟨h.pos, Memory.writeBytes_wf h.mem.1 bs a, Memory.writeBytes_inside h.mem.2 bs hr⟩

theorem State.DataLegal.absorbRegion (h : s.DataLegal) (a n : Nat) : (s.absorbRegion a n).DataLegal :=
  h.setSponge (absorb_pos h.pos _)

theorem State.DataLegal.pad (h : s.DataLegal) (v : Byte) : (s.pad v).DataLegal :=
  h.setSponge (by simp)

theorem State.DataLegal.squeezeRegion (h : s.DataLegal) {a n : Nat} (hr : InRange s a n) :
    (s.squeezeRegion a n).DataLegal :=
  (h.setSponge (squeeze_pos h.pos n)).writeBytes (by rwa [squeeze_length])

theorem State.DataLegal.finishHash (h : s.DataLegal) {a n : Nat} (hr : InRange s a n) : (s.finishHash a n).DataLegal :=
  ((h.pad _).squeezeRegion hr).setCtx _

theorem State.DataLegal.scrub (h : s.DataLegal) : s.scrub.DataLegal :=
  (h.setSponge (by simp)).setCtx _

/-- A completed command leaves no command in flight, so the rest of the invariant holds of it. -/
theorem State.DataLegal.complete (h : s.DataLegal) (e : ErrCode) : (s.complete e).Inv where
  pos := h.pos
  mem := h.mem
  busyNotDone := by simp [State.BusyNotDone, State.busy]
  cmdIsLatched := by simp [State.CmdIsLatched]

/-- A command that passes its checks has its regions in range (R267). -/
theorem inRange_of_firstError {i : Instr} (h : firstError i s = none) {g : Region} (hg : g ∈ regions i s) :
    InRange s g.addr g.len := by
  obtain ⟨-, -, hr, -⟩ := (firstError_eq_none_iff i s).1 h
  exact (Region.inRange_iff _ g).1 (hr g hg)

@[simp] theorem State.aeadEncrypted_length (s : State) : s.aeadEncrypted.1.length = s.operand 5 := by
  simp [State.aeadEncrypted, State.aeadBuffer, State.readBytes]

@[simp] theorem State.aeadDecrypted_length (s : State) : s.aeadDecrypted.1.length = s.operand 5 := by
  simp [State.aeadDecrypted, State.aeadBuffer, State.readBytes]

@[simp] theorem tagOf_length (b : Fin 33) (g : Gimli) : (tagOf b g).length = Config.tagSize := length_gimliBytes _ _ _

/-- A command that passes its checks keeps the invariant: what it writes is in its regions, and POS stays in 0..16. -/
theorem exec_ran_inv (hs : s.DataLegal) {i : Instr} (h : firstError i s = none) :
    ∃ t, exec i s = .next t ∧ t.Inv := by
  have hr : ∀ g ∈ regions i s, InRange s g.addr g.len := fun _ => inRange_of_firstError h
  cases i with
  | permute => exact ⟨_, exec_permute_ran h, ((hs.setGimli _).setCtx _).complete _⟩
  | stateZero => exact ⟨_, exec_stateZero_ran h, ((hs.setSponge (by simp)).setCtx _).complete _⟩
  | stateLoad => exact ⟨_, exec_stateLoad_ran h, ((hs.setSponge (by simp)).setCtx _).complete _⟩
  | stateStore =>
    simp only [regions, List.forall_mem_singleton] at hr
    exact ⟨_, exec_stateStore_ran h, (hs.writeBytes (by rwa [length_gimliBytes])).complete _⟩
  | stateXorByte idx v => exact ⟨_, exec_stateXorByte_ran h, ((hs.setGimli _).setCtx _).complete _⟩
  | duplexAbsorb => exact ⟨_, exec_duplexAbsorb_ran h, ((hs.absorbRegion _ _).setCtx _).complete _⟩
  | duplexAbsorbPad d => exact ⟨_, exec_duplexAbsorbPad_ran h, ((hs.pad _).setCtx _).complete _⟩
  | duplexSqueeze =>
    simp only [regions, List.forall_mem_singleton] at hr
    exact ⟨_, exec_duplexSqueeze_ran h, ((hs.squeezeRegion hr).setCtx _).complete _⟩
  | aeadEncrypt =>
    simp only [regions, List.forall_mem_cons] at hr
    obtain ⟨-, -, -, hbuf, htag, -⟩ := hr
    have hw := hs.writeBytes (bs := s.aeadEncrypted.1) (by rwa [State.aeadEncrypted_length])
    exact ⟨_, exec_aeadEncrypt_ran h, (hw.writeBytes (by rwa [tagOf_length])).scrub.complete _⟩
  | aeadDecrypt =>
    simp only [regions, List.forall_mem_cons] at hr
    obtain ⟨-, -, -, hbuf, -⟩ := hr
    have hw := hs.writeBytes (bs := s.aeadDecrypted.1) (by rwa [State.aeadDecrypted_length])
    refine ⟨_, exec_aeadDecrypt_ran h, ?_⟩
    split
    · exact hw.scrub.complete _
    · exact (hw.writeBytes (by rwa [List.length_replicate])).scrub.complete _
  | hashInit => exact ⟨_, exec_hashInit_ran h, ((hs.setSponge (by simp)).setCtx _).complete _⟩
  | hashUpdate => exact ⟨_, exec_hashUpdate_ran h, (hs.absorbRegion _ _).complete _⟩
  | hashFinalize =>
    simp only [regions, List.forall_mem_singleton] at hr
    exact ⟨_, exec_hashFinalize_ran h, (hs.finishHash hr).complete _⟩
  | hashFinalizeXof =>
    simp only [regions, List.forall_mem_singleton] at hr
    exact ⟨_, exec_hashFinalizeXof_ran h, (hs.finishHash hr).complete _⟩
  | hash =>
    simp only [regions, List.forall_mem_cons] at hr
    obtain ⟨-, hdigest, -⟩ := hr
    have hz := hs.setSponge (d := { gimli := zeroGimli, pos := 0#5 }) (by simp)
    have ha := hz.absorbRegion (s.operand 0) (s.operand 1)
    exact ⟨_, exec_hash_ran h, (ha.finishHash hdigest).complete _⟩

/-- Every command, rejected or run, ends in a state that meets the invariant. -/
theorem exec_inv (hs : s.DataLegal) {i : Instr} (h : exec i s = .next t) : t.Inv := by
  cases he : firstError i s with
  | some e =>
    rw [exec_rejected he, Host.Outcome.next.injEq] at h
    exact h ▸ hs.complete e
  | none =>
    obtain ⟨u, hu, hinv⟩ := exec_ran_inv hs he
    rw [hu, Host.Outcome.next.injEq] at h
    exact h ▸ hinv

end Sys2Proof.Machine
end

section
/-! PROOFS. The invariant of the machine (10_state.md R34, R37; 20_memory.md R66; 70_reset_and_hazards.md R306): the
host's operations and reset keep it, and so does every step. -/

namespace Sys2Proof.Machine

variable {s t : State}

/-- The invariant speaks of six fields only. -/
theorem State.Inv.congr (h : s.Inv) (params : t.params = s.params) (pos : t.pos = s.pos) (dmem : t.dmem = s.dmem)
    (latch : t.latch = s.latch) (done : t.done = s.done) (cmd : t.cmd = s.cmd) : t.Inv where
  pos := by rw [State.PosLegal, pos]; exact h.pos
  mem := by rw [State.MemLegal, dmem, params]; exact h.mem
  busyNotDone := by rw [State.BusyNotDone, State.busy, latch, done]; exact h.busyNotDone
  cmdIsLatched := by rw [State.CmdIsLatched, latch, cmd]; exact h.cmdIsLatched

theorem State.Inv.takeTurn (h : s.Inv) : s.takeTurn.Inv :=
  h.congr (by simp) (by simp) (by simp) (by simp) (by simp) (by simp)

theorem State.Inv.reply (h : s.Inv) (r : Reply) : (s.reply r).Inv := h.congr rfl rfl rfl rfl rfl rfl

theorem State.Inv.withProgram (h : s.Inv) (p : List HostOp) : State.Inv { s with program := p } :=
  h.congr rfl rfl rfl rfl rfl rfl

/-! ### Register writes -/

/-- Acceptance clears DONE and makes CMD the latched word (R271). -/
theorem State.Inv.accept (h : s.Inv) (v : Word) : (s.accept v).Inv where
  pos := h.pos
  mem := h.mem
  busyNotDone := fun _ => rfl
  cmdIsLatched := by simp [State.CmdIsLatched]

theorem State.Inv.writeCmd (h : s.Inv) (v : Word) : (s.writeCmd v).Inv := by
  cases hb : s.busy with
  | true =>
    rw [State.writeCmd_of_busy hb]
    exact h.congr rfl rfl rfl rfl rfl rfl
  | false =>
    rw [State.writeCmd_of_idle hb]
    exact h.accept v

/-- A STATUS write can clear DONE and never sets it (R273). -/
theorem State.Inv.clearStatus (h : s.Inv) (v : Word) : (s.clearStatus v).Inv where
  pos := h.pos
  mem := h.mem
  busyNotDone := fun hb => by rw [State.clearStatus_done, h.busyNotDone hb, Bool.false_and]
  cmdIsLatched := h.cmdIsLatched

theorem State.Inv.writeReg (h : s.Inv) (r : RegName) (v : Word) : (s.writeReg r v).Inv := by
  cases r with
  | cmd => exact h.writeCmd v
  | status => exact h.clearStatus v
  | ctrl => exact h.congr rfl rfl rfl rfl rfl rfl
  | reserved => exact h
  | operand i => exact h.congr rfl rfl rfl rfl rfl rfl

/-! ### DMEM and reset -/

theorem State.Inv.writeBytes (h : s.Inv) {a : Nat} {bs : List Byte} (hr : InRange s a bs.length) :
    (s.writeBytes a bs).Inv where
  pos := h.pos
  mem := (h.dataLegal.writeBytes hr).mem
  busyNotDone := h.busyNotDone
  cmdIsLatched := h.cmdIsLatched

/-- The addresses a command would write lie in DMEM: it is rejected when a region does not (R72, R267). -/
theorem lt_dmemSize_of_mem_writtenAddresses {i : Instr} {a : Nat} (h : a ∈ writtenAddresses i s) :
    a < s.params.dmemSize := by
  unfold writtenAddresses at h
  split at h
  · simp at h
  · next he =>
    simp only [List.mem_flatMap, List.mem_filter, List.mem_map, List.mem_range] at h
    obtain ⟨g, ⟨hg, -⟩, k, hk, rfl⟩ := h
    have := inRange_of_firstError he hg
    omega

theorem lt_dmemSize_of_mem_abortedAddresses {a : Nat} (h : a ∈ s.abortedAddresses) : a < s.params.dmemSize := by
  unfold State.abortedAddresses at h
  split at h
  · simp at h
  · split at h
    · exact lt_dmemSize_of_mem_writtenAddresses h
    · simp at h

/-- The draws of an aborted command keep DMEM legal (R301). -/
theorem State.MemLegal.foldl_drawByte {as : List Nat} (h : s.MemLegal) (ha : ∀ a ∈ as, a < s.params.dmemSize) :
    (as.foldl State.drawByte s).MemLegal := by
  induction as generalizing s with
  | nil => exact h
  | cons a as ih =>
    obtain ⟨hwf, hin⟩ := h
    obtain ⟨ha0, has⟩ := List.forall_mem_cons.1 ha
    exact ih (s := s.drawByte a) ⟨Memory.write_wf hwf _ _, Memory.write_inside hin ha0 _⟩ has

theorem State.Inv.assertReset (h : s.Inv) : s.assertReset.Inv where
  pos := by simp [State.assertReset, State.PosLegal]
  mem := State.MemLegal.foldl_drawByte h.mem fun _ => lt_dmemSize_of_mem_abortedAddresses
  busyNotDone := fun _ => rfl
  cmdIsLatched := by simp [State.assertReset, State.CmdIsLatched]

/-! ### Every step -/

theorem hostOp_inv (hs : s.Inv) {op : HostOp} (h : hostOp op s = .next t) : t.Inv := by
  cases op with
  | regWrite off width v =>
    obtain ⟨-, rfl⟩ := hostOp_regWrite_iff.1 h
    exact hs.writeReg _ v
  | regRead off width =>
    obtain ⟨-, rfl⟩ := hostOp_regRead_iff.1 h
    exact hs.reply _
  | memWrite addr bs =>
    obtain ⟨hd, rfl⟩ := hostOp_memWrite_iff.1 h
    exact hs.writeBytes (dmemRefused_eq_none_iff.1 hd).2
  | memRead addr len =>
    obtain ⟨-, rfl⟩ := hostOp_memRead_iff.1 h
    exact hs.reply _
  | poll =>
    cases hb : s.busy with
    | true =>
      rw [hostOp_poll_of_busy hb, Host.Outcome.next.injEq] at h
      exact h ▸ (hs.reply _).withProgram _
    | false =>
      rw [hostOp_poll_of_idle hb, Host.Outcome.next.injEq] at h
      exact h ▸ hs.reply _
  | assertReset =>
    rw [hostOp_assertReset_iff.1 h]
    exact hs.assertReset
  | secondHost => cases h

/-- Settles O57: the host's operations keep the invariant one by one, and a command ends with none in flight, POS in
0..16 and its writes inside its checked regions. -/
theorem stepKeepsInvariant : Obligations.StepKeepsInvariant := by
  intro s t hs h
  obtain ⟨-, rfl⟩ | ⟨-, op, rest, -, hop⟩ | ⟨-, i, -, hi⟩ | ⟨-, -, rfl⟩ := step_cases h
  · exact hs
  · exact hostOp_inv (hs.takeTurn.withProgram rest) hop
  · exact exec_inv hs.takeTurn.dataLegal hi
  · exact hs.takeTurn.dataLegal.complete .illegal

end Sys2Proof.Machine
end

section
/-! PROOFS. The two views of S (10_state.md R30). -/

namespace Sys2Proof.Machine

/-- Byte k of word j of the state is byte 4j + k of the state (R30). -/
theorem byteAt_four_mul_add (g : Gimli) (j : Nat) {k : Nat} (hk : k < 4) :
    byteAt g (4 * j + k) = byteOfWord (wordAt g j) k := by
  rw [byteAt, show (4 * j + k) / 4 = j by omega, show (4 * j + k) % 4 = k by omega]

/-- Settles O14: a word is its four bytes, and each view sees the other's write at its own place only. -/
theorem byteAndWordViewsAlias : Obligations.ByteAndWordViewsAlias := by
  refine ⟨fun g j _ => wordAt_eq_wordOfBytes g j, fun g i v hi => ⟨?_, ?_⟩, fun g j v hj => ⟨?_, ?_, ?_⟩⟩
  · exact byteAt_setByteAt_same g hi v
  · exact fun j hj => byteAt_setByteAt_ne g hj.symm v
  · exact wordAt_setWordAt_same g hj v
  · exact fun k hk => wordAt_setWordAt_ne g hk.symm v
  · intro k hk
    rw [byteAt_four_mul_add _ _ hk, wordAt_setWordAt_same g hj, byteOfWord]

end Sys2Proof.Machine
end

section
/-! PROOFS. What a command does not touch, and what it does not see (10_state.md R36, R46; 60_exceptions.md R270,
R272). -/

namespace Sys2Proof.Machine

variable {s t : State}

/-- Settles O45: a rejected command changes its completion fields only, and every body keeps these registers. -/
theorem commandsKeepOtherRegisters : Obligations.CommandsKeepOtherRegisters := by
  intro i s t h
  obtain ⟨body, hb, keeps⟩ := exec_spec i s
  rw [hb, Host.Outcome.next.injEq] at h
  subst h
  obtain ⟨e, -, hr⟩ | ⟨-, hr⟩ := State.attempt_cases s i body
  · simp [hr]
  · simp [hr, keeps.params, keeps.a, keeps.cmd, keeps.ovr, keeps.ie, keeps.draws, keeps.program, keeps.turns,
      keeps.replies]

/-- What a command reads is the same in both states: S, POS, CTX, DMEM, the parameters and its latched operands
(R46). -/
structure SameToCommands (s t : State) : Prop where
  params : t.params = s.params
  gimli : t.gimli = s.gimli
  pos : t.pos = s.pos
  ctx : t.ctx = s.ctx
  dmem : t.dmem = s.dmem
  operand : ∀ i, t.operand i = s.operand i

/-- The results of a command and its outcome are the same in both states (R46). -/
structure SameResults (u v : State) : Prop where
  gimli : v.gimli = u.gimli
  pos : v.pos = u.pos
  ctx : v.ctx = u.ctx
  dmem : v.dmem = u.dmem
  errcode : v.errcode = u.errcode

namespace SameToCommands

variable (h : SameToCommands s t)
include h

/-! ### What a command computes from -/

theorem sponge : t.sponge = s.sponge := by simp only [State.sponge, h.gimli, h.pos]

theorem readBytes (a n : Nat) : t.readBytes a n = s.readBytes a n := by simp only [State.readBytes, h.dmem]

theorem regions_eq (i : Instr) : regions i t = regions i s := by cases i <;> simp only [regions, h.operand]

theorem firstError_eq (i : Instr) : firstError i t = firstError i s := by
  simp only [firstError, h.regions_eq, h.ctx, h.params]

theorem aeadKeyed : t.aeadKeyed = s.aeadKeyed := by simp only [State.aeadKeyed, h.params, h.readBytes, h.operand]

theorem aeadBuffer : t.aeadBuffer = s.aeadBuffer := by simp only [State.aeadBuffer, h.readBytes, h.operand]

theorem aeadEncrypted : t.aeadEncrypted = s.aeadEncrypted := by
  simp only [State.aeadEncrypted, h.params, h.aeadKeyed, h.aeadBuffer]

theorem aeadDecrypted : t.aeadDecrypted = s.aeadDecrypted := by
  simp only [State.aeadDecrypted, h.params, h.aeadKeyed, h.aeadBuffer]

/-! ### The updates of a command keep the two states the same -/

theorem setSponge (d : Sponge) : SameToCommands (s.setSponge d) (t.setSponge d) :=
  ⟨h.params, rfl, rfl, h.ctx, h.dmem, h.operand⟩

theorem setGimli (g : Gimli) : SameToCommands (s.setGimli g) (t.setGimli g) :=
  ⟨h.params, rfl, h.pos, h.ctx, h.dmem, h.operand⟩

theorem setCtx (c : Ctx) : SameToCommands (s.setCtx c) (t.setCtx c) :=
  ⟨h.params, h.gimli, h.pos, rfl, h.dmem, h.operand⟩

theorem writeBytes (a : Nat) (bs : List Byte) : SameToCommands (s.writeBytes a bs) (t.writeBytes a bs) :=
  ⟨h.params, h.gimli, h.pos, h.ctx, by simp only [State.writeBytes_dmem, h.dmem], h.operand⟩

theorem absorbRegion (a n : Nat) : SameToCommands (s.absorbRegion a n) (t.absorbRegion a n) := by
  rw [State.absorbRegion, State.absorbRegion, h.sponge, h.readBytes]
  exact h.setSponge _

theorem pad (v : Byte) : SameToCommands (s.pad v) (t.pad v) := by
  rw [State.pad, State.pad, h.sponge, h.params]
  exact h.setSponge _

theorem squeezeRegion (a n : Nat) : SameToCommands (s.squeezeRegion a n) (t.squeezeRegion a n) := by
  rw [State.squeezeRegion, State.squeezeRegion, h.sponge]
  exact (h.setSponge _).writeBytes _ _

theorem finishHash (a n : Nat) : SameToCommands (s.finishHash a n) (t.finishHash a n) :=
  ((h.pad _).squeezeRegion a n).setCtx _

theorem scrub : SameToCommands s.scrub t.scrub := (h.setSponge _).setCtx _

theorem complete (e : ErrCode) : SameResults (s.complete e) (t.complete e) :=
  ⟨h.gimli, h.pos, h.ctx, h.dmem, rfl⟩

/-- A command that passes its checks does the same in two states that are the same to it. -/
theorem exec_ran {i : Instr} (hs : firstError i s = none) :
    ∃ u v, exec i s = .next u ∧ exec i t = .next v ∧ SameResults u v := by
  have ht : firstError i t = none := (h.firstError_eq i).trans hs
  cases i with
  | permute => exact ⟨_, _, exec_permute_ran hs, exec_permute_ran ht, by
      rw [h.gimli]; exact ((h.setGimli _).setCtx _).complete _⟩
  | stateZero => exact ⟨_, _, exec_stateZero_ran hs, exec_stateZero_ran ht, ((h.setSponge _).setCtx _).complete _⟩
  | stateLoad => exact ⟨_, _, exec_stateLoad_ran hs, exec_stateLoad_ran ht, by
      rw [h.readBytes, h.operand]; exact ((h.setSponge _).setCtx _).complete _⟩
  | stateStore => exact ⟨_, _, exec_stateStore_ran hs, exec_stateStore_ran ht, by
      rw [h.gimli, h.operand]; exact (h.writeBytes _ _).complete _⟩
  | stateXorByte idx v => exact ⟨_, _, exec_stateXorByte_ran hs, exec_stateXorByte_ran ht, by
      rw [h.gimli]; exact ((h.setGimli _).setCtx _).complete _⟩
  | duplexAbsorb => exact ⟨_, _, exec_duplexAbsorb_ran hs, exec_duplexAbsorb_ran ht, by
      rw [h.operand, h.operand]; exact ((h.absorbRegion _ _).setCtx _).complete _⟩
  | duplexAbsorbPad d => exact ⟨_, _, exec_duplexAbsorbPad_ran hs, exec_duplexAbsorbPad_ran ht,
      ((h.pad _).setCtx _).complete _⟩
  | duplexSqueeze => exact ⟨_, _, exec_duplexSqueeze_ran hs, exec_duplexSqueeze_ran ht, by
      rw [h.operand, h.operand]; exact ((h.squeezeRegion _ _).setCtx _).complete _⟩
  | aeadEncrypt => exact ⟨_, _, exec_aeadEncrypt_ran hs, exec_aeadEncrypt_ran ht, by
      rw [h.aeadEncrypted, h.params, h.operand, h.operand]
      exact ((h.writeBytes _ _).writeBytes _ _).scrub.complete _⟩
  | aeadDecrypt =>
    refine ⟨_, _, exec_aeadDecrypt_ran hs, exec_aeadDecrypt_ran ht, ?_⟩
    rw [h.aeadDecrypted, h.params, h.operand, h.operand, h.operand, (h.writeBytes _ _).readBytes]
    split
    · exact (h.writeBytes _ _).scrub.complete _
    · exact ((h.writeBytes _ _).writeBytes _ _).scrub.complete _
  | hashInit => exact ⟨_, _, exec_hashInit_ran hs, exec_hashInit_ran ht, ((h.setSponge _).setCtx _).complete _⟩
  | hashUpdate => exact ⟨_, _, exec_hashUpdate_ran hs, exec_hashUpdate_ran ht, by
      rw [h.operand, h.operand]; exact (h.absorbRegion _ _).complete _⟩
  | hashFinalize => exact ⟨_, _, exec_hashFinalize_ran hs, exec_hashFinalize_ran ht, by
      rw [h.operand]; exact (h.finishHash _ _).complete _⟩
  | hashFinalizeXof => exact ⟨_, _, exec_hashFinalizeXof_ran hs, exec_hashFinalizeXof_ran ht, by
      rw [h.operand, h.operand]; exact (h.finishHash _ _).complete _⟩
  | hash => exact ⟨_, _, exec_hash_ran hs, exec_hash_ran ht, by
      rw [h.operand, h.operand, h.operand]
      exact (((h.setSponge _).absorbRegion _ _).finishHash _ _).complete _⟩

/-- A command has the same results and outcome in two states that are the same to it. -/
theorem sameResults {i : Instr} {u v : State} (hu : exec i s = .next u) (hv : exec i t = .next v) :
    SameResults u v := by
  obtain ⟨u', v', hu', hv', hr⟩ : ∃ u v, exec i s = .next u ∧ exec i t = .next v ∧ SameResults u v := by
    cases he : firstError i s with
    | some e => exact ⟨_, _, exec_rejected he, exec_rejected ((h.firstError_eq i).trans he), h.complete e⟩
    | none => exact h.exec_ran he
  rw [hu, Host.Outcome.next.injEq] at hu'
  rw [hv, Host.Outcome.next.injEq] at hv'
  exact hu' ▸ hv' ▸ hr

end SameToCommands

/-- With a command in flight the operands are the latched ones (R46). -/
theorem State.operand_of_latch {l : Latch} (h : s.latch = some l) (i : Fin 8) : s.operand i = (l.a.get i).toNat := by
  simp only [State.operand, h]

/-- No register write changes what the command in flight reads (R46). -/
theorem writeReg_sameToCommands {l : Latch} (h : s.latch = some l) (r : RegName) (v : Word) :
    (s.writeReg r v).latch = some l ∧ SameToCommands s (s.writeReg r v) := by
  have hw : (s.writeReg r v).latch = some l ∧ (s.writeReg r v).params = s.params ∧
      (s.writeReg r v).gimli = s.gimli ∧ (s.writeReg r v).pos = s.pos ∧ (s.writeReg r v).ctx = s.ctx ∧
      (s.writeReg r v).dmem = s.dmem := by
    cases r with
    | cmd => simp [State.writeReg, State.writeCmd_of_busy (show s.busy = true by simp [State.busy, h]), h]
    | status => simp [State.writeReg, h]
    | ctrl => simp [State.writeReg, h]
    | reserved => simp [State.writeReg, h]
    | operand i => simp [State.writeReg, h]
  obtain ⟨hl, hp, hg, hpos, hc, hd⟩ := hw
  exact ⟨hl, hp, hg, hpos, hc, hd, fun i => by rw [State.operand_of_latch hl, State.operand_of_latch h]⟩

/-- Settles O47: a register write leaves all that the command reads as it was, so the command does the same. -/
theorem latchIsolatesTheCommand : Obligations.LatchIsolatesTheCommand := by
  intro s t u v l i off x hl hw hu hv
  obtain ⟨-, rfl⟩ := hostOp_regWrite_iff.1 hw
  obtain ⟨hl', same⟩ := writeReg_sameToCommands hl (regAt off) x
  obtain ⟨hg, hp, hc, hd, he⟩ := same.sameResults hu hv
  exact ⟨hl', hg, hp, hc, hd, he⟩

end Sys2Proof.Machine
end

section
/-! PROOFS. The registers as the host reads and writes them (10_state.md R36-R45, 20_memory.md R62-R65). -/

namespace Sys2Proof.Machine

variable {s : State}

/-- A write to an aligned offset of the window (R62, R63). -/
theorem hostOp_regWrite {off : Nat} (h : off % 4 = 0 ∧ off < 0x40) (v : Word) :
    hostOp (.regWrite off 32 v) s = .next (s.writeReg (regAt off) v) :=
  hostOp_regWrite_iff.2 ⟨accessRefused_eq_none_iff.2 ⟨rfl, h⟩, rfl⟩

/-- A read at an aligned offset of the window (R62, R63). -/
theorem hostOp_regRead {off : Nat} (h : off % 4 = 0 ∧ off < 0x40) :
    hostOp (.regRead off 32) s = .next { s with replies := s.replies ++ [.word (s.readReg (regAt off))] } :=
  hostOp_regRead_iff.2 ⟨accessRefused_eq_none_iff.2 ⟨rfl, h⟩, rfl⟩

/-- Ai stands at 0x20 + 4·i (R62, R99). -/
theorem regAt_operand (i : Fin 8) : regAt (0x20 + 4 * i.val) = .operand i := by
  revert i
  decide

/-! ### STATUS -/

/-- The fields of STATUS above bit 3: ERRCODE, CTX, POS and the reserved zeros between and above them (R38). -/
theorem fields_statusWord (s : State) :
    (statusWord s).extractLsb' 4 4 = s.errcode.code ∧ (statusWord s).extractLsb' 8 2 = s.ctx.code ∧
      (statusWord s).extractLsb' 10 6 = 0#6 ∧ (statusWord s).extractLsb' 16 5 = s.pos ∧
      (statusWord s).extractLsb' 21 11 = 0#11 := by
  refine ⟨?_, ?_, ?_, ?_, ?_⟩ <;>
  · apply BitVec.eq_of_getLsbD_eq
    intro k hk
    interval_cases k <;> simp [statusWord]

/-- Settles O50: STATUS is read as its word, whose fields are the registers; the codes are those of R261 and R35. -/
theorem statusWordLayout : Obligations.StatusWordLayout := by
  refine ⟨fun s => ⟨statusWord s, hostOp_regRead (by decide), ?_⟩, by decide, by decide⟩
  obtain ⟨hbusy, hdone, hovr, hzero⟩ := flagBits_statusWord s
  exact ⟨hbusy, hdone, hovr, hzero, fields_statusWord s⟩

/-! ### A0..A7, CTRL and the reserved offsets -/

/-- What is written to Ai reads back (R36). -/
theorem readReg_writeOperand_same (s : State) (i : Fin 8) (v : Word) :
    (s.writeOperand i v).readReg (.operand i) = v := by
  simp [State.readReg, Vector.get_eq_getElem]

theorem get_writeOperand_ne {i j : Fin 8} (h : j ≠ i) (v : Word) : (s.writeOperand i v).a.get j = s.a.get j := by
  have : i.val ≠ j.val := fun e => h (Fin.ext e.symm)
  simp [Vector.get_eq_getElem, this]

/-- CTRL reads back bit 0 of what was written (R45). -/
theorem readReg_setCtrl (s : State) (v : Word) : (s.setCtrl v).readReg .ctrl = v &&& 1#32 := by
  apply BitVec.eq_of_getLsbD_eq
  intro k hk
  cases k with
  | zero => simp [State.readReg, ctrlWord]
  | succ k => simp [State.readReg, ctrlWord]

/-- Settles O51: each register reads back what its own write stores, and the reserved offsets store nothing. -/
theorem registerWritesReadBack : Obligations.RegisterWritesReadBack := by
  refine ⟨fun s i v => ?_, fun s v => ?_, fun s off v hoff => ?_⟩
  · have hoff : (0x20 + 4 * i.val) % 4 = 0 ∧ 0x20 + 4 * i.val < 0x40 := by omega
    refine ⟨s.writeOperand i v, ?_, rfl, ?_, fun j hj => get_writeOperand_ne hj v⟩
    · rw [hostOp_regWrite hoff, regAt_operand, State.writeReg]
    · rw [hostOp_regRead hoff, regAt_operand, readReg_writeOperand_same]
  · refine ⟨s.setCtrl v, hostOp_regWrite (by decide) v, rfl, ?_⟩
    rw [hostOp_regRead (by decide), ← readReg_setCtrl s v]
    rfl
  · have hr : (off % 4 = 0 ∧ off < 0x40) ∧ regAt off = .reserved := by
      revert off
      decide
    obtain ⟨hoff, hreg⟩ := hr
    rw [hostOp_regWrite hoff, hostOp_regRead hoff, hreg]
    exact ⟨rfl, rfl⟩

end Sys2Proof.Machine
end

section
/-! PROOFS. Which agent moves, and what its step does (20_memory.md R75, R78; 60_exceptions.md R271, R282). -/

namespace Sys2Proof.Machine

variable {s : State}

/-- BUSY is 1 exactly while a command is latched (R39). -/
theorem State.busy_iff_latch_ne_none : s.busy = true ↔ s.latch ≠ none := Option.isSome_iff_ne_none

theorem State.busy_eq_false_of_latch (h : s.latch = none) : s.busy = false := by rw [State.busy, h, Option.isSome_none]

/-- With no command pending the host moves while it has an operation left (R78, R282). -/
theorem State.mover_of_idle (h : s.busy = false) : s.mover = if s.program.isEmpty then .nobody else .host := by
  simp [State.mover, h]

/-- With no host operation left a pending command is the engine's to run (R271). -/
theorem State.mover_of_busy_of_program_nil (h : s.busy = true) (hp : s.program = []) : s.mover = .engine := by
  simp [State.mover, h, hp]

/-- The engine moves only when a command is pending (R271). -/
theorem State.busy_of_mover_engine (h : s.mover = .engine) : s.busy = true := by
  by_contra hb
  rw [State.mover_of_idle (Bool.eq_false_of_not_eq_true hb)] at h
  split at h <;> cases h

/-- While a command is pending, a step uses up a turn exactly when the host has an operation left (log 2). -/
theorem State.takeTurn_of_busy (h : s.busy = true) :
    s.takeTurn = if s.program = [] then s else { s with turns := s.turns.tail } := by
  by_cases hp : s.program = [] <;> simp [State.takeTurn, State.contested, h, hp]

/-- The engine fetches the command that the latched word decodes to (R46, R95). -/
theorem State.fetched_of_decode {l : Latch} {i : Instr} (hl : s.latch = some l) (hi : decode l.word = .ok i) :
    s.fetched = some i := by
  simp only [State.fetched, hl, hi]

theorem step_of_nobody (h : s.mover = .nobody) : step s = .next s := by simp only [step, h]

theorem step_of_host {op : HostOp} {rest : List HostOp} (h : s.mover = .host) (hp : s.program = op :: rest) :
    step s = hostOp op { s.takeTurn with program := rest } := by
  simp only [step, h, hostStep, State.takeTurn_program, hp]

theorem step_of_engine {i : Instr} (h : s.mover = .engine) (hi : s.takeTurn.fetched = some i) :
    step s = exec i s.takeTurn := by
  simp only [step, h, hi]

/-- Settles O7: taking the turn keeps the latch, so the engine fetches the latched word's command. -/
theorem stepRunsTheLatchedCommand : Obligations.StepRunsTheLatchedCommand := by
  intro s l i hl hi hm
  have hf : s.takeTurn.fetched = some i := State.fetched_of_decode (by rw [State.takeTurn_latch, hl]) hi
  exact ⟨step_of_engine hm hf, State.takeTurn_of_busy (State.busy_of_mover_engine hm)⟩

/-- Settles O8: who moves follows from BUSY and the program, and the host's step is its next operation. -/
theorem stepRunsTheHostProgram : Obligations.StepRunsTheHostProgram := by
  refine ⟨fun s op rest => step_of_host, fun s hl hp => ?_, fun s hl hp => ?_, fun s hl hp => ?_⟩
  · refine step_of_nobody ?_
    rw [State.mover_of_idle (State.busy_eq_false_of_latch hl), hp, List.isEmpty_nil, if_pos rfl]
  · rw [State.mover_of_idle (State.busy_eq_false_of_latch hl), if_neg (by simpa using hp)]
  · exact State.mover_of_busy_of_program_nil (State.busy_iff_latch_ne_none.2 hl) hp

end Sys2Proof.Machine
end

section
/-! PROOFS. The host's accesses: what is refused, and what DMEM gives and takes (20_memory.md R63, R64, R67;
70_reset_and_hazards.md R305). -/

namespace Sys2Proof.Machine

variable {s : State} {addr len : Nat} {bs : List Byte} {r : Refusal}

/-! ### Registers -/

theorem hostOp_regWrite_refused_iff {off width : Nat} {v : Word} :
    hostOp (.regWrite off width v) s = .refused r ↔ accessRefused off width = some r := by
  simp only [hostOp]
  cases accessRefused off width <;> simp

theorem hostOp_regRead_refused_iff {off width : Nat} :
    hostOp (.regRead off width) s = .refused r ↔ accessRefused off width = some r := by
  simp only [hostOp]
  cases accessRefused off width <;> simp

/-- What makes a register access one outside the interface (R63, R64). -/
theorem exists_accessRefused_iff {off width : Nat} :
    (∃ r, accessRefused off width = some r) ↔ width ≠ 32 ∨ off % 4 ≠ 0 ∨ 0x40 ≤ off := by
  rw [← Option.ne_none_iff_exists', ne_eq, accessRefused_eq_none_iff]
  omega

/-- Settles O52: reads and writes are refused by one test of width and offset. -/
theorem registerAccessesRefused : Obligations.RegisterAccessesRefused := by
  intro s off width v
  simp only [hostOp_regWrite_refused_iff, hostOp_regRead_refused_iff]
  exact ⟨exists_accessRefused_iff, exists_accessRefused_iff⟩

/-! ### DMEM accesses done and refused -/

/-- A DMEM write is done while BUSY = 0 and inside DMEM (R67, R305). -/
theorem hostOp_memWrite (hb : s.busy = false) (hr : InRange s addr bs.length) :
    hostOp (.memWrite addr bs) s = .next (s.writeBytes addr bs) :=
  hostOp_memWrite_iff.2 ⟨dmemRefused_eq_none_iff.2 ⟨hb, hr⟩, rfl⟩

/-- A DMEM read is done while BUSY = 0 and inside DMEM (R67, R305). -/
theorem hostOp_memRead (hb : s.busy = false) (hr : InRange s addr len) :
    hostOp (.memRead addr len) s = .next (s.reply (.bytes (s.readBytes addr len))) :=
  hostOp_memRead_iff.2 ⟨dmemRefused_eq_none_iff.2 ⟨hb, hr⟩, rfl⟩

theorem hostOp_memWrite_refused_iff :
    hostOp (.memWrite addr bs) s = .refused r ↔ dmemRefused s addr bs.length = some r := by
  simp only [hostOp]
  cases dmemRefused s addr bs.length <;> simp

theorem hostOp_memRead_refused_iff :
    hostOp (.memRead addr len) s = .refused r ↔ dmemRefused s addr len = some r := by
  simp only [hostOp]
  cases dmemRefused s addr len <;> simp

/-- BUSY refuses every DMEM access, whatever its address (R305, log 12). -/
theorem dmemRefused_of_busy (h : s.busy = true) (addr len : Nat) : dmemRefused s addr len = some .dmemWhileBusy :=
  if_pos h

/-- With BUSY = 0 an access that leaves DMEM is refused for its address (R67). -/
theorem dmemRefused_of_not_inRange (hb : s.busy = false) (hr : ¬InRange s addr len) :
    dmemRefused s addr len = some .dmemOutsideMemory := by
  have hout : 0 < len ∧ s.params.dmemSize < addr + len := by omega
  rw [dmemRefused, hb, if_neg Bool.false_ne_true, if_pos hout]

/-! ### Numbers in DMEM, first byte least significant -/

theorem length_leBytes (n v : Nat) : (leBytes n v).length = n := by
  induction n generalizing v with
  | zero => rfl
  | succ n ih => rw [leBytes, List.length_cons, ih]

/-- The first of `n` bytes holds the number modulo 256, and the others hold its quotient (R67). -/
theorem leValue_leBytes (n v : Nat) : leValue (leBytes n v) = v % 256 ^ n := by
  induction n generalizing v with
  | zero => rw [leBytes, leValue, Nat.pow_zero, Nat.mod_one]
  | succ n ih =>
    have hsplit : v % 256 ^ (n + 1) = v % 256 + 256 * (v / 256 % 256 ^ n) := by rw [Nat.pow_succ', Nat.mod_mul]
    rw [leBytes, leValue, ih, BitVec.toNat_ofNat, hsplit]

/-! ### A write in DMEM and the reads after it -/

/-- A byte outside the written region keeps its value (R67). -/
theorem Memory.read_writeBytes_of_not_inside {a : Nat} (m : List Host.Cell) (h : ¬Inside a addr bs.length) :
    Memory.read (Memory.writeBytes m addr bs) a = Memory.read m a :=
  Memory.read_writeBytes_outside m bs addr a (by omega)

/-- A DMEM read returns what the write before it has put there (R67). -/
theorem hostOp_memRead_writeBytes (hb : s.busy = false) (hr : InRange s addr bs.length) :
    hostOp (.memRead addr bs.length) (s.writeBytes addr bs) = .next ((s.writeBytes addr bs).reply (.bytes bs)) := by
  have hbw : (s.writeBytes addr bs).busy = false := by rw [State.busy, State.writeBytes_latch, ← State.busy, hb]
  have hrw : InRange (s.writeBytes addr bs) addr bs.length := by rwa [InRange, State.writeBytes_params]
  rw [hostOp_memRead hbw hrw, State.readBytes, State.writeBytes_dmem, Memory.readBytes_writeBytes_same]

/-- Settles O53: an access is done exactly while BUSY = 0 and inside DMEM; what it does is what the laws of DMEM say of
`writeBytes` and `readBytes`. -/
theorem hostDmemAccess : Obligations.HostDmemAccess := by
  refine ⟨fun s addr bs hb hr => ?_, fun s addr len hb hr => ?_,
    ⟨rfl, fun _ _ => rfl, fun n v => ⟨leValue_leBytes n v, length_leBytes n v⟩⟩,
    fun s addr len hb => hostOp_memRead_refused_iff.2 (dmemRefused_of_busy hb _ _),
    fun s addr bs hb => hostOp_memWrite_refused_iff.2 (dmemRefused_of_busy hb _ _),
    fun s addr len hb hr => hostOp_memRead_refused_iff.2 (dmemRefused_of_not_inRange hb hr),
    fun s addr bs hb hr => hostOp_memWrite_refused_iff.2 (dmemRefused_of_not_inRange hb hr)⟩
  · exact ⟨s.writeBytes addr bs, hostOp_memWrite hb hr, rfl,
      fun i hi => Memory.read_writeBytes_inside _ bs addr i hi, hostOp_memRead_writeBytes hb hr,
      fun a ha => Memory.read_writeBytes_of_not_inside _ ha⟩
  · refine ⟨hostOp_memRead hb hr, Memory.length_readBytes _ addr len, fun i hi => ?_⟩
    have hlen : i < (Memory.readBytes s.dmem addr len).length := by rwa [Memory.length_readBytes]
    rw [List.getElem?_eq_getElem hlen, Memory.getElem_readBytes]

end Sys2Proof.Machine
end

section
/-! PROOFS. What a command writes in DMEM: byte strings that fill regions it writes, and nothing else (20_memory.md R68;
30_encoding.md R93). -/

namespace Sys2Proof.Machine

variable {s t : State} {gs : List Region} {m m' : List Host.Cell}

/-- DMEM `m'` is DMEM `m` after byte strings have been written, each of them filling a region of the list that is not
read-only (R68). -/
inductive WritesOnly (gs : List Region) (m : List Host.Cell) : List Host.Cell → Prop where
  | nothing : WritesOnly gs m m
  | region {m' : List Host.Cell} {addr len : Nat} {access : Access} {bs : List Byte} (before : WritesOnly gs m m')
      (mem : ⟨addr, len, access⟩ ∈ gs) (written : access ≠ .r) (fills : bs.length = len) :
      WritesOnly gs m (Memory.writeBytes m' addr bs)

namespace WritesOnly

/-- A byte in no written region reads as before (R68). -/
theorem read_outside (h : WritesOnly gs m m') {a : Nat} (ha : ∀ g ∈ gs, g.access = .r ∨ ¬Inside a g.addr g.len) :
    Memory.read m' a = Memory.read m a := by
  induction h with
  | nothing => rfl
  | region _ mem written fills ih =>
    subst fills
    rw [Memory.read_writeBytes_of_not_inside _ ((ha _ mem).resolve_left written), ih]

/-- With read-only regions alone nothing has been written (R68). -/
theorem eq_of_readOnly (h : WritesOnly gs m m') (hr : ∀ g ∈ gs, g.access = .r) : m' = m := by
  cases h with
  | nothing => rfl
  | region _ mem written _ => exact absurd (hr _ mem) written

/-- A byte string fills a region that is not read-only. -/
theorem writeBytes (h : WritesOnly gs m s.dmem) {addr len : Nat} {access : Access} {bs : List Byte}
    (mem : ⟨addr, len, access⟩ ∈ gs) (written : access ≠ .r) (fills : bs.length = len) :
    WritesOnly gs m (s.writeBytes addr bs).dmem := by
  rw [State.writeBytes_dmem]
  exact h.region mem written fills

/-- A squeeze fills its region (R177). -/
theorem squeezeRegion (h : WritesOnly gs m s.dmem) {a n : Nat} (mem : ⟨a, n, .w⟩ ∈ gs) :
    WritesOnly gs m (s.squeezeRegion a n).dmem := by
  rw [State.squeezeRegion_dmem]
  exact h.region mem (by decide) (squeeze_length _ _)

/-- A digest or an XOF output fills its region (R232, R233). -/
theorem finishHash (h : WritesOnly gs m s.dmem) {a n : Nat} (mem : ⟨a, n, .w⟩ ∈ gs) :
    WritesOnly gs m (s.finishHash a n).dmem := by
  rw [State.finishHash_dmem]
  exact h.region mem (by decide) (squeeze_length _ _)

theorem setSponge (h : WritesOnly gs m s.dmem) (d : Sponge) : WritesOnly gs m (s.setSponge d).dmem := by
  rwa [State.setSponge_dmem]

theorem absorbRegion (h : WritesOnly gs m s.dmem) (a n : Nat) : WritesOnly gs m (s.absorbRegion a n).dmem := by
  rwa [State.absorbRegion_dmem]

theorem setCtx (h : WritesOnly gs m s.dmem) (c : Ctx) : WritesOnly gs m (s.setCtx c).dmem := by
  rwa [State.setCtx_dmem]

theorem scrub (h : WritesOnly gs m s.dmem) : WritesOnly gs m s.scrub.dmem := by rwa [State.scrub_dmem]

theorem complete (h : WritesOnly gs m s.dmem) (e : ErrCode) : WritesOnly gs m (s.complete e).dmem := by
  rwa [State.complete_dmem]

end WritesOnly

/-- A command that passes its checks writes the regions it writes and nothing else (R68). -/
theorem exec_ran_writesOnly {i : Instr} (h : firstError i s = none) :
    ∃ t, exec i s = .next t ∧ WritesOnly (regions i s) s.dmem t.dmem := by
  have hs : WritesOnly (regions i s) s.dmem s.dmem := .nothing
  cases i with
  | permute => exact ⟨_, exec_permute_ran h, hs⟩
  | stateZero => exact ⟨_, exec_stateZero_ran h, hs⟩
  | stateLoad => exact ⟨_, exec_stateLoad_ran h, hs⟩
  | stateStore =>
    have hreg : ⟨s.operand 0, Config.stateSize, .w⟩ ∈ regions .stateStore s := by simp [regions]
    exact ⟨_, exec_stateStore_ran h, (hs.writeBytes hreg (by decide) (length_gimliBytes _ _ _)).complete _⟩
  | stateXorByte idx v => exact ⟨_, exec_stateXorByte_ran h, hs⟩
  | duplexAbsorb => exact ⟨_, exec_duplexAbsorb_ran h, hs⟩
  | duplexAbsorbPad d => exact ⟨_, exec_duplexAbsorbPad_ran h, hs⟩
  | duplexSqueeze =>
    have hout : ⟨s.operand 0, s.operand 1, .w⟩ ∈ regions .duplexSqueeze s := by simp [regions]
    exact ⟨_, exec_duplexSqueeze_ran h, ((hs.squeezeRegion hout).setCtx _).complete _⟩
  | aeadEncrypt =>
    have hbuf : ⟨s.operand 4, s.operand 5, .rw⟩ ∈ regions .aeadEncrypt s := by simp [regions]
    have htag : ⟨s.operand 6, Config.tagSize, .w⟩ ∈ regions .aeadEncrypt s := by simp [regions]
    have hw := hs.writeBytes hbuf (by decide) s.aeadEncrypted_length
    exact ⟨_, exec_aeadEncrypt_ran h, (hw.writeBytes htag (by decide) (tagOf_length _ _)).scrub.complete _⟩
  | aeadDecrypt =>
    have hbuf : ⟨s.operand 4, s.operand 5, .rw⟩ ∈ regions .aeadDecrypt s := by simp [regions]
    have hw := hs.writeBytes hbuf (by decide) s.aeadDecrypted_length
    refine ⟨_, exec_aeadDecrypt_ran h, ?_⟩
    split
    · exact hw.scrub.complete _
    · exact (hw.writeBytes hbuf (by decide) List.length_replicate).scrub.complete _
  | hashInit => exact ⟨_, exec_hashInit_ran h, hs⟩
  | hashUpdate => exact ⟨_, exec_hashUpdate_ran h, hs⟩
  | hashFinalize =>
    have hout : ⟨s.operand 0, Config.digestSize, .w⟩ ∈ regions .hashFinalize s := by simp [regions]
    exact ⟨_, exec_hashFinalize_ran h, (hs.finishHash hout).complete _⟩
  | hashFinalizeXof =>
    have hout : ⟨s.operand 0, s.operand 1, .w⟩ ∈ regions .hashFinalizeXof s := by simp [regions]
    exact ⟨_, exec_hashFinalizeXof_ran h, (hs.finishHash hout).complete _⟩
  | hash =>
    have hout : ⟨s.operand 2, Config.digestSize, .w⟩ ∈ regions .hash s := by simp [regions]
    exact ⟨_, exec_hash_ran h, (((hs.setSponge _).absorbRegion _ _).finishHash hout).complete _⟩

/-- Every command, rejected or run, writes only the regions it writes (R68, R263). -/
theorem exec_writesOnly {i : Instr} (h : exec i s = .next t) : WritesOnly (regions i s) s.dmem t.dmem := by
  cases he : firstError i s with
  | some e =>
    rw [exec_rejected he, Host.Outcome.next.injEq] at h
    exact h ▸ .nothing
  | none =>
    obtain ⟨u, hu, hw⟩ := exec_ran_writesOnly he
    rw [hu, Host.Outcome.next.injEq] at h
    exact h ▸ hw

/-- Settles O46: a command's DMEM is the old one with its written regions filled; the regions are R93's, row by row. -/
theorem commandsWriteOnlyTheirRegions : Obligations.CommandsWriteOnlyTheirRegions := by
  refine ⟨fun i s t h => ?_, fun i s => ?_⟩
  · have hw := exec_writesOnly h
    exact ⟨fun a ha => hw.read_outside ha, hw.eq_of_readOnly⟩
  · cases i <;> rfl

end Sys2Proof.Machine
end

section
/-! PROOFS. The opcode map field by field, and the two directions of the round trip (30_encoding.md R90, R91, R94, R95):
each row is an opcode together with the fields it uses, so matching a row and taking the command out of a word are said
in terms of the four fields of the word. -/

namespace Sys2Proof

variable {w : Word} {r q : OpcodeRow}

/-! ### A word and one row -/

/-- Every field that the word's opcode does not use is zero, and RSV is (R91). -/
def UnusedFieldsZero (w : Word) : Prop :=
  rsvField w = 0#8 ∧ (imm8Field w = 0#8 ∨ opField w = 0x05#8 ∨ opField w = 0x11#8) ∧
    (idxField w = 0#8 ∨ opField w = 0x05#8)

/-- A word is its four fields (R90). -/
theorem word_eq_iff_fields {v w : Word} : v = w ↔
    opField v = opField w ∧ imm8Field v = imm8Field w ∧ idxField v = idxField w ∧ rsvField v = rsvField w := by
  constructor
  · rintro rfl
    exact ⟨rfl, rfl, rfl, rfl⟩
  · rintro ⟨hop, himm, hidx, hrsv⟩
    exact word_ext_fields hop himm hidx hrsv

/-- A row fixes the whole word, or it is STATE_XOR_BYTE's or DUPLEX_ABSORB_PAD's (R94). -/
theorem row_fixesWord_or_hasFields : ∀ r ∈ opcodeTable,
    (r.mask = 0xFFFFFFFF#32 ∧ imm8Field r.pattern = 0#8 ∧ idxField r.pattern = 0#8 ∧ rsvField r.pattern = 0#8 ∧
      opField r.pattern ≠ 0x05#8 ∧ opField r.pattern ≠ 0x11#8) ∨
    (r.mask = 0xFF0000FF#32 ∧ r.pattern = 0x05#32) ∨ (r.mask = 0xFFFF00FF#32 ∧ r.pattern = 0x11#32) := by
  decide

/-- A word matches a row exactly when it has the row's opcode and nothing in the fields that opcode does not use (R91,
R95). -/
theorem matches_iff_fields (hr : r ∈ opcodeTable) :
    w &&& r.mask = r.pattern ↔ opField w = opField r.pattern ∧ UnusedFieldsZero w := by
  obtain ⟨hm, himm, hidx, hrsv, h5, h11⟩ | ⟨hm, hp⟩ | ⟨hm, hp⟩ := row_fixesWord_or_hasFields r hr
  · rw [hm, and_fullMask, word_eq_iff_fields, himm, hidx, hrsv, UnusedFieldsZero]
    refine and_congr_right fun hop => ?_
    simp only [hop, h5, h11, or_false]
    tauto
  · have hop : opField 0x05#32 = 0x05#8 := by decide
    rw [hm, hp, stateXorByte_mask_iff, hop, UnusedFieldsZero]
    tauto
  · have hop : opField 0x11#32 = 0x11#8 := by decide
    have hne : (0x11#8 : Byte) ≠ 0x05#8 := by decide
    rw [hm, hp, duplexAbsorbPad_mask_iff, hop, UnusedFieldsZero]
    refine and_congr_right fun h => ?_
    simp only [h, hne, or_false, or_true, true_and]
    exact and_comm

/-- No two rows have one opcode (R94). -/
theorem opcodes_nodup : (opcodeTable.map fun r => opField r.pattern).Nodup := by decide

/-- "At most one row matches, because the rows differ in OP and every mask covers OP" (R95). -/
theorem row_eq_of_matches (hr : r ∈ opcodeTable) (hq : q ∈ opcodeTable) (hrw : w &&& r.mask = r.pattern)
    (hqw : w &&& q.mask = q.pattern) : r = q := by
  have hop : opField r.pattern = opField q.pattern := by
    rw [← ((matches_iff_fields hr).1 hrw).1, ((matches_iff_fields hq).1 hqw).1]
  exact List.inj_on_of_nodup_map opcodes_nodup hr hq hop

/-- What a row takes out of a word: its own opcode, IMM8 for the two opcodes that use it, and IDX for STATE_XOR_BYTE
(R92, R94). -/
theorem fields_rowInstr (hr : r ∈ opcodeTable) (w : Word) :
    (r.instr w).opcode = opField r.pattern ∧
    (r.instr w).imm8 = (if opField r.pattern = 0x05#8 ∨ opField r.pattern = 0x11#8 then imm8Field w else 0#8) ∧
    (r.instr w).idx = if opField r.pattern = 0x05#8 then idxField w else 0#8 := by
  revert r
  simp [opcodeTable, Instr.opcode, Instr.imm8, Instr.idx, opField]

/-- The command that a row takes out of a word it matches has that word for its encoding (R95, R99). -/
theorem encode_rowInstr (hr : r ∈ opcodeTable) (hm : w &&& r.mask = r.pattern) : encode (r.instr w) = w := by
  obtain ⟨hop, hrsv, himm, hidx⟩ := (matches_iff_fields hr).1 hm
  obtain ⟨iop, iimm, iidx⟩ := fields_rowInstr hr w
  obtain ⟨eop, eimm, eidx, ersv⟩ := fields_encode (r.instr w)
  rw [← hop] at iop iimm iidx
  refine word_ext_fields (eop.trans iop) ?_ ?_ (ersv.trans hrsv.symm)
  · rw [eimm, iimm, ite_eq_left_iff]
    exact fun h => (himm.resolve_right h).symm
  · rw [eidx, iidx, ite_eq_left_iff]
    exact fun h => (hidx.resolve_right h).symm

/-! ### What `decode` answers -/

/-- A word matches a row and is the row's command, or it matches none and is illegal (R95). -/
theorem decode_cases (w : Word) :
    (∃ r ∈ opcodeTable, w &&& r.mask = r.pattern ∧ decode w = .ok (r.instr w)) ∨
    ((∀ r ∈ opcodeTable, w &&& r.mask ≠ r.pattern) ∧ decode w = .error (whyIllegal w)) := by
  unfold decode
  cases h : opcodeTable.find? (fun r => r.accepts w) with
  | some r =>
    have hacc : r.accepts w := List.find?_some (p := fun q : OpcodeRow => q.accepts w) h
    exact .inl ⟨r, List.mem_of_find?_eq_some h, beq_iff_eq.1 hacc, rfl⟩
  | none => exact .inr ⟨fun r hr hm => List.find?_eq_none.1 h r hr (beq_iff_eq.2 hm), rfl⟩

theorem decode_of_matches (hr : r ∈ opcodeTable) (hm : w &&& r.mask = r.pattern) : decode w = .ok (r.instr w) := by
  obtain ⟨q, hq, hqm, hd⟩ | ⟨hno, -⟩ := decode_cases w
  · rw [hd, row_eq_of_matches hq hr hqm hm]
  · exact absurd hm (hno r hr)

theorem decode_eq_ok_iff_row {i : Instr} :
    decode w = .ok i ↔ ∃ r ∈ opcodeTable, w &&& r.mask = r.pattern ∧ i = r.instr w := by
  constructor
  · intro h
    obtain ⟨r, hr, hm, hd⟩ | ⟨-, hd⟩ := decode_cases w
    · exact ⟨r, hr, hm, Except.ok.inj (h.symm.trans hd)⟩
    · cases h.symm.trans hd
  · rintro ⟨r, hr, hm, rfl⟩
    exact decode_of_matches hr hm

theorem exists_decode_eq_error_iff :
    (∃ e, decode w = .error e) ↔ ∀ r ∈ opcodeTable, w &&& r.mask ≠ r.pattern := by
  constructor
  · rintro ⟨e, he⟩ r hr hm
    cases he.symm.trans (decode_of_matches hr hm)
  · intro hno
    obtain ⟨r, hr, hm, -⟩ | ⟨-, hd⟩ := decode_cases w
    · exact absurd hm (hno r hr)
    · exact ⟨_, hd⟩

/-! ### The round trip -/

/-- A command uses IMM8 only if R94 lists it (R91). -/
theorem Instr.imm8_ne_zero {i : Instr} (h : i.imm8 ≠ 0#8) :
    (∃ idx v, i = .stateXorByte idx v) ∨ ∃ d, i = .duplexAbsorbPad d := by
  cases i
  case stateXorByte idx v => exact .inl ⟨idx, v, rfl⟩
  case duplexAbsorbPad d => exact .inr ⟨d, rfl⟩
  all_goals exact absurd rfl h

/-- STATE_XOR_BYTE alone uses IDX (R91). -/
theorem Instr.idx_ne_zero {i : Instr} (h : i.idx ≠ 0#8) : ∃ idx v, i = .stateXorByte idx v := by
  cases i
  case stateXorByte idx v => exact ⟨idx, v, rfl⟩
  all_goals exact absurd rfl h

/-- The word of a command leaves the fields its opcode does not use at zero (R91). -/
theorem unusedFieldsZero_encode (i : Instr) : UnusedFieldsZero (encode i) := by
  obtain ⟨hop, himm, hidx, hrsv⟩ := fields_encode i
  rw [UnusedFieldsZero, hop, himm, hidx, hrsv]
  refine ⟨rfl, or_iff_not_imp_left.2 fun h => ?_, or_iff_not_imp_left.2 fun h => ?_⟩
  · obtain ⟨idx, v, rfl⟩ | ⟨d, rfl⟩ := Instr.imm8_ne_zero h
    · exact .inl rfl
    · exact .inr rfl
  · obtain ⟨idx, v, rfl⟩ := Instr.idx_ne_zero h
    rfl

/-- The opcode map has a row for every command, and it takes the command back out of the command's word (R94). -/
theorem exists_row_instr_encode (i : Instr) :
    ∃ r ∈ opcodeTable, opField r.pattern = i.opcode ∧ r.instr (encode i) = i := by
  obtain ⟨-, himm, hidx, -⟩ := fields_encode i
  cases i <;> simp [opcodeTable, opField, Instr.opcode, Instr.imm8, Instr.idx, himm, hidx]

/-- Settles O1: the word of a command matches the command's row, which takes the command back out of it. -/
theorem decodeAfterEncode : Obligations.DecodeAfterEncode := by
  intro i
  obtain ⟨r, hr, hop, hi⟩ := exists_row_instr_encode i
  have hm : encode i &&& r.mask = r.pattern :=
    (matches_iff_fields hr).2 ⟨(fields_encode i).1.trans hop.symm, unusedFieldsZero_encode i⟩
  rw [decode_of_matches hr hm, hi]

/-- Settles O2: the word matches a row, and the row's command has it for its encoding. -/
theorem encodeAfterDecode : Obligations.EncodeAfterDecode := by
  intro w i h
  obtain ⟨r, hr, hm, rfl⟩ := decode_eq_ok_iff_row.1 h
  exact encode_rowInstr hr hm

/-- Decoding and encoding are inverse to each other: the legal words are the words of the commands (R95, R99). -/
theorem decode_eq_ok_iff {i : Instr} : decode w = .ok i ↔ encode i = w :=
  ⟨encodeAfterDecode w i, fun h => h ▸ decodeAfterEncode i⟩

/-- Settles O3: rows differ in OP, so a word matches one at most; a legal word is a command's, whose unused fields are
zero. -/
theorem oneRowDecidesAWord : Obligations.OneRowDecidesAWord := by
  refine ⟨fun w i => decode_eq_ok_iff_row, ?_, fun w => exists_decode_eq_error_iff.2, fun w i h => ?_⟩
  · refine (List.pairwise_map.1 opcodes_nodup).imp_of_mem ?_
    rintro r q hr hq hne w ⟨hrw, hqw⟩
    exact hne (by rw [row_eq_of_matches hr hq hrw hqw])
  · obtain rfl := decode_eq_ok_iff.1 h
    obtain ⟨-, himm, hidx, hrsv⟩ := fields_encode i
    rw [himm, hidx]
    exact ⟨hrsv, Instr.imm8_ne_zero, Instr.idx_ne_zero⟩

/-- Settles O5: each word is its command's encoding, so it decodes to that command. -/
theorem specWordsDecode : Obligations.SpecWordsDecode := by
  unfold Obligations.SpecWordsDecode
  simp only [decode_eq_ok_iff]
  decide

end Sys2Proof
end

section
/-! PROOFS. Illegal words (30_encoding.md R96, 60_exceptions.md R264): which they are, and what the engine does with
one. -/

namespace Sys2Proof.Machine

variable {s t : State} {l : Latch}

/-! ### Which words are illegal -/

/-- A word is illegal exactly when no row has its opcode or a field that its opcode does not use is not zero (R96). -/
theorem exists_decode_eq_error_iff_fields {w : Word} : (∃ e, decode w = .error e) ↔
    opField w ∉ opcodeTable.map (fun r => opField r.pattern) ∨ ¬UnusedFieldsZero w := by
  rw [exists_decode_eq_error_iff, ← not_and_or, List.mem_map]
  constructor
  · rintro hno ⟨⟨r, hr, hop⟩, hz⟩
    exact hno r hr ((matches_iff_fields hr).2 ⟨hop.symm, hz⟩)
  · intro hno r hr hm
    obtain ⟨hop, hz⟩ := (matches_iff_fields hr).1 hm
    exact hno ⟨⟨r, hr, hop.symm⟩, hz⟩

theorem not_unusedFieldsZero_iff {w : Word} : ¬UnusedFieldsZero w ↔
    rsvField w ≠ 0#8 ∨ (imm8Field w ≠ 0#8 ∧ opField w ≠ 0x05#8 ∧ opField w ≠ 0x11#8) ∨
      (idxField w ≠ 0#8 ∧ opField w ≠ 0x05#8) := by
  simp only [UnusedFieldsZero, not_and_or, not_or, ne_eq]

/-! ### What the engine does with a word -/

/-- The engine fetches no command from an illegal word (R96). -/
theorem State.fetched_of_decode_error {e : DecodeError} (hl : s.latch = some l) (he : decode l.word = .error e) :
    s.fetched = none := by
  simp only [State.fetched, hl, he]

/-- The engine's step on an illegal word is its completion with ILLEGAL and nothing else (R96, R264). -/
theorem step_of_illegal {e : DecodeError} (hl : s.latch = some l) (hm : s.mover = .engine)
    (he : decode l.word = .error e) : step s = .next (s.takeTurn.complete .illegal) := by
  have hf : s.takeTurn.fetched = none := State.fetched_of_decode_error (by rw [State.takeTurn_latch, hl]) he
  simp only [step, hm, hf, State.rejectIllegal]

/-- A command that the engine has decoded never answers ILLEGAL (R261, R262). -/
theorem exec_errcode_ne_illegal {i : Instr} (h : exec i s = .next t) : t.errcode ≠ .illegal := by
  obtain ⟨body, hb, keeps⟩ := exec_spec i s
  obtain rfl := Host.Outcome.next.inj (hb.symm.trans h)
  obtain ⟨e, he, ha⟩ | ⟨-, ha⟩ := State.attempt_cases s i body
  · rw [ha, State.complete_errcode]
    obtain rfl | rfl | rfl | rfl := firstError_code he <;> decide
  · rw [ha, State.complete_errcode]
    obtain ho | ⟨ho, -⟩ := keeps.outcome s <;> rw [ho] <;> decide

/-- STATUS after the rejection of an illegal word with POS, CTX and OVR at 0: ERRCODE = ILLEGAL and DONE = 1 (R38,
R264). -/
theorem statusWord_complete_illegal (hpos : s.pos = 0#5) (hctx : s.ctx = .none) (hovr : s.ovr = false) :
    statusWord (s.complete .illegal) = 0x00000012#32 := by
  simp [statusWord, State.busy, hpos, hctx, hovr, Ctx.code, ErrCode.code]

/-- An illegal word written to CMD after reset (R264). -/
theorem step_reset_illegal {w : Nat} {e : DecodeError} (he : decode (BitVec.ofNat 32 (w % 2 ^ 32)) = .error e) :
    ∃ t, step (State.reset.withFetchWord 32 w) = .next t ∧ statusWord t = 0x00000012#32 :=
  ⟨_, step_of_illegal (s := State.reset.withFetchWord 32 w) rfl rfl he, statusWord_complete_illegal rfl rfl rfl⟩

/-- Settles O4: the illegal words are those that match no row, field by field; the engine completes such a word, and
runs the command of any other. -/
theorem illegalWordsAreRejected : Obligations.IllegalWordsAreRejected := by
  refine ⟨fun w => ?_, fun s l hl hm ⟨e, he⟩ => step_of_illegal hl hm he, fun s l i t hl hm hi h => ?_, fun w hw => ?_⟩
  · rw [exists_decode_eq_error_iff_fields, not_unusedFieldsZero_iff]
    rfl
  · rw [(stepRunsTheLatchedCommand s l i hl hi hm).1] at h
    exact exec_errcode_ne_illegal h
  · have hillegal : ∀ w ∈ [0x00000000, 0x00000006, 0x000000FF, 0x01000001, 0x00000101, 0x00010002, 0x80000011],
        decode (BitVec.ofNat 32 (w % 2 ^ 32)) = .error (whyIllegal (BitVec.ofNat 32 (w % 2 ^ 32))) := by decide
    exact step_reset_illegal (hillegal w hw)

end Sys2Proof.Machine
end

section
/-! PROOFS. The assembler (30_encoding.md R93, R98, R99): which lines it refuses, and the one expansion that every
command's line has. -/

namespace Sys2Proof.Machine

variable {l : AsmLine} {i : Instr}

/-- A line is well formed when its operands fit the fields and the registers they go to (R99, log 15). -/
theorem asmLine_wf_iff : l.wf = true ↔ (∀ v ∈ l.immediates, v < 256) ∧ ∀ v ∈ l.operands, v < 2 ^ 32 := by
  simp only [AsmLine.wf, AsmLine.immediatesFit, AsmLine.operandsFit, Bool.and_eq_true, List.all_eq_true,
    decide_eq_true_eq]

/-- The assembler refuses exactly the lines that are not well formed (R99). -/
theorem expand_eq_none_iff : expand l = none ↔ l.wf = false := by
  unfold expand
  cases l.wf <;> cases asmInstr l <;> simp

/-- The expansion of a command's line: its operand registers in order, the command's word, POLL (R99). -/
theorem expand_command (hi : asmInstr l = some i) (himm : ∀ v ∈ l.immediates, v < 256)
    (hops : ∀ v ∈ l.operands, v < 2 ^ 32) :
    expand l = some (operandWrites 0 l.operands ++ [.regWrite 0x00 32 (encode i), .poll]) := by
  simp only [expand, asmLine_wf_iff.2 ⟨himm, hops⟩, hi, if_true]

/-- The line of a command with register operands only (R93, R99). -/
theorem expand_registers (hi : asmInstr l = some i) (himm : l.immediates = []) (hops : ∀ v ∈ l.operands, v < 2 ^ 32) :
    expand l = some (operandWrites 0 l.operands ++ [.regWrite 0x00 32 (encode i), .poll]) :=
  expand_command hi (himm ▸ List.forall_mem_nil _) hops

/-- The line of a command with byte operands only (R93, R99). -/
theorem expand_bytes (hi : asmInstr l = some i) (himm : ∀ v ∈ l.immediates, v < 256) (hops : l.operands = []) :
    expand l = some [.regWrite 0x00 32 (encode i), .poll] := by
  rw [expand_command hi himm (hops ▸ List.forall_mem_nil _), hops, operandWrites, List.nil_append]

/-- A byte operand in its field of the word: the number itself (R90, R99). -/
theorem setWidth_byte {v : Nat} (hv : v < 256) : (BitVec.ofNat 8 v).setWidth 32 = BitVec.ofNat 32 v :=
  BitVec.setWidth_ofNat_of_le_of_lt (by decide) hv

theorem encode_stateXorByte {idx v : Nat} (hidx : idx < 256) (hv : v < 256) :
    encode (.stateXorByte (BitVec.ofNat 8 idx) (BitVec.ofNat 8 v)) =
      0x00000005#32 ||| (BitVec.ofNat 32 v <<< 8) ||| (BitVec.ofNat 32 idx <<< 16) := by
  simp only [encode, Instr.opcode, Instr.imm8, Instr.idx, setWidth_byte hidx, setWidth_byte hv]
  rfl

theorem encode_duplexAbsorbPad {d : Nat} (hd : d < 256) :
    encode (.duplexAbsorbPad (BitVec.ofNat 8 d)) = 0x00000011#32 ||| (BitVec.ofNat 32 d <<< 8) := by
  have hidx : (0#8 : Byte).setWidth 32 <<< 16 = 0#32 := by decide
  simp only [encode, Instr.opcode, Instr.imm8, Instr.idx, setWidth_byte hd, hidx, BitVec.or_zero]
  rfl

/-- Settles O6: the lines refused are those whose operands do not fit, and every expansion is that of a command's line,
the byte operands standing in the word. -/
theorem pseudoInstructionsExpand : Obligations.PseudoInstructionsExpand := by
  refine ⟨fun l => ?_, ⟨rfl, rfl, rfl, rfl⟩, fun i v hi hv => ?_, fun d hd => ?_, fun a ha => ?_, fun a n ha hn => ?_,
    fun a n d ha hn hd => ?_, fun k n a al b bl t hk hn ha hal hb hbl ht => ?_⟩
  · rw [expand_eq_none_iff, ← Bool.not_eq_true, asmLine_wf_iff, not_and_or]
    simp only [not_forall, Nat.not_lt, exists_prop]
  · rw [← encode_stateXorByte hi hv]
    exact expand_bytes rfl (by simp [AsmLine.immediates, hi, hv]) rfl
  · rw [← encode_duplexAbsorbPad hd]
    exact expand_bytes rfl (by simp [AsmLine.immediates, hd]) rfl
  · have hops : ∀ v ∈ [a], v < 2 ^ 32 := by simpa using ha
    exact ⟨expand_registers (i := .stateLoad) rfl rfl hops, expand_registers (i := .stateStore) rfl rfl hops,
      expand_registers (i := .hashFinalize) rfl rfl hops⟩
  · have hops : ∀ v ∈ [a, n], v < 2 ^ 32 := by simpa using ⟨ha, hn⟩
    exact ⟨expand_registers (i := .duplexAbsorb) rfl rfl hops, expand_registers (i := .duplexSqueeze) rfl rfl hops,
      expand_registers (i := .hashUpdate) rfl rfl hops, expand_registers (i := .hashFinalizeXof) rfl rfl hops⟩
  · have hops : ∀ v ∈ [a, n, d], v < 2 ^ 32 := by simpa using ⟨ha, hn, hd⟩
    exact expand_registers (i := .hash) rfl rfl hops
  · have hops : ∀ v ∈ [k, n, a, al, b, bl, t], v < 2 ^ 32 := by simpa using ⟨hk, hn, ha, hal, hb, hbl, ht⟩
    exact ⟨expand_registers (i := .aeadEncrypt) rfl rfl hops, expand_registers (i := .aeadDecrypt) rfl rfl hops⟩

end Sys2Proof.Machine
end

section
/-! PROOFS. The two swaps of row 0 and the linear layer (40_permutation.md R133-R136). -/

namespace Sys2Proof.Machine

variable {r : Nat}

/-! ### The swaps -/

/-- Every word after one has been written. -/
theorem wordAt_setWordAt (g : Gimli) {i : Nat} (hi : i < 12) (j : Nat) (v : Word) :
    wordAt (setWordAt g i v) j = if i = j then v else wordAt g j := by
  split_ifs with h
  · rw [← h, wordAt_setWordAt_same g hi]
  · exact wordAt_setWordAt_ne g h v

/-- Every word after two have been exchanged. -/
theorem wordAt_swapWords (g : Gimli) {i j : Nat} (hi : i < 12) (hj : j < 12) (k : Nat) :
    wordAt (swapWords g i j) k = if j = k then wordAt g i else if i = k then wordAt g j else wordAt g k := by
  rw [swapWords, wordAt_setWordAt _ hj, wordAt_setWordAt _ hi]

/-- The words of row 0 after the small swap (R134). -/
theorem smallSwap_rowZero (g : Gimli) :
    wordAt (smallSwap g) 0 = wordAt g 1 ∧ wordAt (smallSwap g) 1 = wordAt g 0 ∧
      wordAt (smallSwap g) 2 = wordAt g 3 ∧ wordAt (smallSwap g) 3 = wordAt g 2 := by
  simp [smallSwap, wordAt_swapWords]

/-- The small swap keeps rows 1 and 2 (R134). -/
theorem wordAt_smallSwap_of_four_le (g : Gimli) {j : Nat} (hj : 4 ≤ j) : wordAt (smallSwap g) j = wordAt g j := by
  have hne : 0 ≠ j ∧ 1 ≠ j ∧ 2 ≠ j ∧ 3 ≠ j := by omega
  simp [smallSwap, wordAt_swapWords, hne]

/-- The words of row 0 after the big swap (R135). -/
theorem bigSwap_rowZero (g : Gimli) :
    wordAt (bigSwap g) 0 = wordAt g 2 ∧ wordAt (bigSwap g) 1 = wordAt g 3 ∧
      wordAt (bigSwap g) 2 = wordAt g 0 ∧ wordAt (bigSwap g) 3 = wordAt g 1 := by
  simp [bigSwap, wordAt_swapWords]

/-- The big swap keeps rows 1 and 2 (R135). -/
theorem wordAt_bigSwap_of_four_le (g : Gimli) {j : Nat} (hj : 4 ≤ j) : wordAt (bigSwap g) j = wordAt g j := by
  have hne : 0 ≠ j ∧ 1 ≠ j ∧ 2 ≠ j ∧ 3 ≠ j := by omega
  simp [bigSwap, wordAt_swapWords, hne]

/-- Settles O9: each swap is two exchanges of words of row 0. -/
theorem swapsExchangeRowZero : Obligations.SwapsExchangeRowZero := by
  intro g
  obtain ⟨s0, s1, s2, s3⟩ := smallSwap_rowZero g
  obtain ⟨b0, b1, b2, b3⟩ := bigSwap_rowZero g
  exact ⟨⟨s0, s1, s2, s3, fun _ => wordAt_smallSwap_of_four_le g⟩,
    ⟨b0, b1, b2, b3, fun _ => wordAt_bigSwap_of_four_le g⟩⟩

/-! ### The linear layer -/

theorem linearLayer_of_mod_eq_zero (g : Gimli) (h : r % 4 = 0) :
    linearLayer g r = setWordAt (smallSwap g) 0 (wordAt (smallSwap g) 0 ^^^ roundConstant r) := if_pos h

theorem linearLayer_of_mod_eq_two (g : Gimli) (h : r % 4 = 2) : linearLayer g r = bigSwap g := by
  simp [linearLayer, h]

/-- In an odd round there is no linear layer (R133). -/
theorem linearLayer_of_odd (g : Gimli) (h : r % 4 = 1 ∨ r % 4 = 3) : linearLayer g r = g := by
  rw [linearLayer, if_neg (by omega), if_neg (by omega)]

/-- Settles O11: the three branches of the linear layer; the constant goes into word 0 after the small swap. -/
theorem linearLayerByRound : Obligations.LinearLayerByRound := by
  refine ⟨fun g r h => ?_, fun g r => linearLayer_of_mod_eq_two g, fun g r => linearLayer_of_odd g, by decide⟩
  obtain ⟨s0, s1, s2, s3⟩ := smallSwap_rowZero g
  have hkeep : ∀ j, 0 ≠ j → wordAt (linearLayer g r) j = wordAt (smallSwap g) j := by
    intro j hj
    rw [linearLayer_of_mod_eq_zero g h, wordAt_setWordAt_ne _ hj]
  refine ⟨?_, (hkeep 1 (by decide)).trans s1, (hkeep 2 (by decide)).trans s2, (hkeep 3 (by decide)).trans s3,
    fun j hj => (hkeep j (by omega)).trans (wordAt_smallSwap_of_four_le g hj)⟩
  rw [linearLayer_of_mod_eq_zero g h, wordAt_setWordAt_same _ (by decide), s0, roundConstant]

/-! ### The rounds -/

/-- Rounds r down to 1 are one left fold over the round numbers in descending order (R130). -/
theorem gimliRounds_eq_foldl (r : Nat) (g : Gimli) :
    gimliRounds r g = ((List.range r).reverse.map (· + 1)).foldl gimliRound g := by
  induction r generalizing g with
  | zero => rfl
  | succ r ih => simp [gimliRounds_succ, ih, List.range_succ]

/-- Settles O12: a round's number modulo 4 chooses its linear layer; P is the fold of the 24 rounds. -/
theorem roundScheduleOfP : Obligations.RoundScheduleOfP := by
  refine ⟨fun g r hr => ?_, fun g r hr => ?_, fun g r hr => ?_, fun g => ?_⟩
  · have hmod : ∀ r ∈ [24, 20, 16, 12, 8, 4], r % 4 = 0 := by decide
    exact linearLayer_of_mod_eq_zero _ (hmod r hr)
  · have hmod : ∀ r ∈ [22, 18, 14, 10, 6, 2], r % 4 = 2 := by decide
    exact linearLayer_of_mod_eq_two _ (hmod r hr)
  · have hmod : ∀ r ∈ [23, 21, 19, 17, 15, 13, 11, 9, 7, 5, 3, 1], r % 4 = 1 ∨ r % 4 = 3 := by decide
    exact linearLayer_of_odd _ (hmod r hr)
  · have hrounds : (List.range Config.rounds).reverse.map (· + 1) =
        [24, 23, 22, 21, 20, 19, 18, 17, 16, 15, 14, 13, 12, 11, 10, 9, 8, 7, 6, 5, 4, 3, 2, 1] := by decide
    rw [permute_eq, gimliRounds_eq_foldl, hrounds]

end Sys2Proof.Machine
end

section
/-! PROOFS. The SP-box as a map of one column, and the SP layer as that map on each of the four (40_permutation.md
R130-R132). -/

namespace Sys2Proof.Machine

variable {g h : Gimli} {x y : Nat}

/-- Column x of S: S.m(0,x), S.m(1,x), S.m(2,x) (R32). -/
def column (g : Gimli) (x : Nat) : Word × Word × Word := (matrixAt g 0 x, matrixAt g 1 x, matrixAt g 2 x)

/-- What the SP-box makes of the rotated words a, b, c of a column: the new words of rows 0, 1, 2 (R131). -/
def spMix : Word × Word × Word → Word × Word × Word
  | (a, b, c) => (c ^^^ b ^^^ ((a &&& b) <<< 3), b ^^^ a ^^^ ((a ||| c) <<< 1), a ^^^ (c <<< 1) ^^^ ((b &&& c) <<< 2))

/-- The rotations that begin the SP-box (R131). -/
def spRotate : Word × Word × Word → Word × Word × Word
  | (u, v, w) => (rotl u 24, rotl v 9, w)

/-- The SP-box writes column x only (R132). -/
theorem wordAt_spBox_ne (g : Gimli) (hx : x < 4) {j : Nat} (hj : j % 4 ≠ x) : wordAt (spBox g x) j = wordAt g j := by
  rw [spBox, wordAt_setWordAt_ne _ (by omega), wordAt_setWordAt_ne _ (by omega), wordAt_setWordAt_ne _ (by omega)]

/-- What the SP-box leaves in its column (R131). -/
theorem column_spBox_same (g : Gimli) (hx : x < 4) : column (spBox g x) x = spMix (spRotate (column g x)) := by
  have h0 : x < 12 := by omega
  have h1 : 4 * 1 + x < 12 := by omega
  have h2 : 4 * 2 + x < 12 := by omega
  simp [column, spMix, spRotate, matrixAt, spBox, wordAt_setWordAt, h0, h1, h2]

theorem column_spBox_ne (g : Gimli) (hx : x < 4) (hy : y < 4) (hxy : x ≠ y) : column (spBox g x) y = column g y := by
  simp only [column, matrixAt]
  rw [wordAt_spBox_ne g hx (by omega), wordAt_spBox_ne g hx (by omega), wordAt_spBox_ne g hx (by omega)]

/-- The words of a column are its rows (R32). -/
theorem matrixAt_eq_of_column_eq (e : column g x = column h x) (hy : y < 3) : matrixAt g y x = matrixAt h y x := by
  simp only [column, Prod.mk.injEq] at e
  obtain ⟨e0, e1, e2⟩ := e
  interval_cases y
  · exact e0
  · exact e1
  · exact e2

/-- Two states with the same four columns are the same state (R32). -/
theorem gimli_ext_columns (e : ∀ x, x < 4 → column g x = column h x) : g = h := by
  refine gimli_ext fun j hj => ?_
  have hm := matrixAt_eq_of_column_eq (y := j / 4) (e (j % 4) (by omega)) (by omega)
  rwa [matrixAt, matrixAt, Nat.div_add_mod] at hm

/-- The SP-boxes of two columns may be computed in either order (R132). -/
theorem spBox_comm (g : Gimli) (hx : x < 4) (hy : y < 4) (hxy : x ≠ y) :
    spBox (spBox g x) y = spBox (spBox g y) x := by
  refine gimli_ext_columns fun z hz => ?_
  by_cases hzx : x = z
  · subst hzx
    rw [column_spBox_ne _ hy hz hxy.symm, column_spBox_same _ hx, column_spBox_same _ hx,
      column_spBox_ne _ hy hz hxy.symm]
  by_cases hzy : y = z
  · subst hzy
    rw [column_spBox_ne _ hx hz hxy, column_spBox_same _ hy, column_spBox_same _ hy, column_spBox_ne _ hx hz hxy]
  · rw [column_spBox_ne _ hy hz hzy, column_spBox_ne _ hx hz hzx, column_spBox_ne _ hx hz hzx,
      column_spBox_ne _ hy hz hzy]

/-- The SP layer is the SP-box's map on each of the four columns (R130). -/
theorem column_spLayer (g : Gimli) (hx : x < 4) : column (spLayer g) x = spMix (spRotate (column g x)) := by
  rw [spLayer]
  interval_cases x <;> simp [column_spBox_same, column_spBox_ne]

/-- Settles O10: a column's SP-box is a map of its three words, and the columns share no word. -/
theorem spBoxActsOnOneColumn : Obligations.SpBoxActsOnOneColumn := by
  refine ⟨fun g x a b c hx ha hb hc => ?_, fun g x y => spBox_comm g, fun g h x hx e y hy => ?_,
    fun g x y hx hy => ?_⟩
  · have hcol := column_spBox_same g hx
    simp only [column, spMix, spRotate, matrixAt, Prod.mk.injEq, Nat.reduceMul, Nat.zero_add] at hcol
    obtain ⟨h0, h1, h2⟩ := hcol
    subst ha hb hc
    exact ⟨h2, h1, h0, fun j => wordAt_spBox_ne g hx⟩
  · refine matrixAt_eq_of_column_eq ?_ hy
    have hcol : column g x = column h x := by rw [column, column, e 0 (by omega), e 1 (by omega), e 2 (by omega)]
    rw [column_spLayer g hx, column_spLayer h hx, hcol]
  · exact matrixAt_eq_of_column_eq ((column_spLayer g hx).trans (column_spBox_same g hx).symm) hy

end Sys2Proof.Machine
end

section
/-! PROOFS. P is a bijection (40_permutation.md R130, R131, R133): each of its layers is injective, and the states are
finitely many. -/

namespace Sys2Proof.Machine

open Function

/-! ### The SP layer -/

/-- A rotation to the left by k takes bit i from k places below it, round the end of the word (R9). -/
theorem getLsbD_rotl (v : Word) {k i : Nat} (hk : k < 32) (hi : i < 32) :
    (rotl v k).getLsbD i = v.getLsbD ((i + (32 - k)) % 32) := by
  simp only [rotl, BitVec.getLsbD_or, BitVec.getLsbD_shiftLeft, BitVec.getLsbD_ushiftRight, hi, decide_true,
    Bool.true_and]
  by_cases hik : i < k
  · rw [show (i + (32 - k)) % 32 = 32 - k + i by omega]
    simp [hik]
  · rw [show (i + (32 - k)) % 32 = i - k by omega, BitVec.getLsbD_of_ge v (32 - k + i) (by omega)]
    simp [hik]

/-- Rotating by k and then by 32 - k is no rotation (R9). -/
theorem rotl_rotl (v : Word) {k : Nat} (h0 : 0 < k) (h32 : k < 32) : rotl (rotl v k) (32 - k) = v := by
  apply BitVec.eq_of_getLsbD_eq
  intro i hi
  rw [getLsbD_rotl _ (by omega) hi, getLsbD_rotl _ h32 (by omega)]
  congr 1
  omega

theorem rotl_injective {k : Nat} (h0 : 0 < k) (h32 : k < 32) : Injective fun v => rotl v k :=
  LeftInverse.injective (g := fun v => rotl v (32 - k)) fun v => rotl_rotl v h0 h32

theorem spRotate_injective : Injective spRotate := by
  rintro ⟨u, v, w⟩ ⟨u', v', w'⟩ e
  simp only [spRotate, Prod.mk.injEq] at e
  obtain ⟨hu, hv, rfl⟩ := e
  rw [rotl_injective (by decide) (by decide) hu, rotl_injective (by decide) (by decide) hv]

/-- Bit n of a word shifted to the left is a bit below n, or 0. -/
theorem getLsbD_shiftLeft_congr {v v' : Word} {k n : Nat} (hk : 0 < k)
    (h : ∀ m < n, v.getLsbD m = v'.getLsbD m) : (v <<< k).getLsbD n = (v' <<< k).getLsbD n := by
  rw [BitVec.getLsbD_shiftLeft, BitVec.getLsbD_shiftLeft]
  by_cases hkn : n < k
  · simp [hkn]
  · rw [h (n - k) (by omega)]

/-- Every other term of the three results being shifted to the left, bit n of the results and the bits of a, b and c
below n give bit n of a, then of b, then of c. -/
theorem spMix_injective : Injective spMix := by
  rintro ⟨a, b, c⟩ ⟨a', b', c'⟩ e
  simp only [spMix, Prod.mk.injEq] at e
  obtain ⟨e0, e1, e2⟩ := e
  have hbits : ∀ n, a.getLsbD n = a'.getLsbD n ∧ b.getLsbD n = b'.getLsbD n ∧ c.getLsbD n = c'.getLsbD n := by
    intro n
    induction n using Nat.strongRecOn with
    | ind n ih =>
      have hc₁ : (c <<< 1).getLsbD n = (c' <<< 1).getLsbD n :=
        getLsbD_shiftLeft_congr (by decide) fun m hm => (ih m hm).2.2
      have hbc : ((b &&& c) <<< 2).getLsbD n = ((b' &&& c') <<< 2).getLsbD n :=
        getLsbD_shiftLeft_congr (by decide) fun m hm => by simp [ih m hm]
      have hac : ((a ||| c) <<< 1).getLsbD n = ((a' ||| c') <<< 1).getLsbD n :=
        getLsbD_shiftLeft_congr (by decide) fun m hm => by simp [ih m hm]
      have hab : ((a &&& b) <<< 3).getLsbD n = ((a' &&& b') <<< 3).getLsbD n :=
        getLsbD_shiftLeft_congr (by decide) fun m hm => by simp [ih m hm]
      have ha : a.getLsbD n = a'.getLsbD n := by
        simpa only [BitVec.getLsbD_xor, hc₁, hbc, Bool.xor_left_inj] using congrArg (·.getLsbD n) e2
      have hb : b.getLsbD n = b'.getLsbD n := by
        simpa only [BitVec.getLsbD_xor, hac, ha, Bool.xor_left_inj] using congrArg (·.getLsbD n) e1
      have hc : c.getLsbD n = c'.getLsbD n := by
        simpa only [BitVec.getLsbD_xor, hab, hb, Bool.xor_left_inj] using congrArg (·.getLsbD n) e0
      exact ⟨ha, hb, hc⟩
  have ha : a = a' := BitVec.eq_of_getLsbD_eq fun n _ => (hbits n).1
  have hb : b = b' := BitVec.eq_of_getLsbD_eq fun n _ => (hbits n).2.1
  have hc : c = c' := BitVec.eq_of_getLsbD_eq fun n _ => (hbits n).2.2
  rw [ha, hb, hc]

theorem spLayer_injective : Injective spLayer := by
  intro g h e
  refine gimli_ext_columns fun x hx => spRotate_injective (spMix_injective ?_)
  rw [← column_spLayer g hx, ← column_spLayer h hx, e]

/-! ### The linear layer -/

/-- Exchanging two words undoes itself. -/
theorem swapWords_injective {i j : Nat} (hi : i < 12) (hj : j < 12) : Injective fun g => swapWords g i j := by
  refine Involutive.injective fun g => gimli_ext fun k _ => ?_
  simp only [wordAt_swapWords _ hi hj]
  split_ifs <;> simp_all

theorem smallSwap_injective : Injective smallSwap :=
  (swapWords_injective (by decide) (by decide)).comp (swapWords_injective (by decide) (by decide))

theorem bigSwap_injective : Injective bigSwap :=
  (swapWords_injective (by decide) (by decide)).comp (swapWords_injective (by decide) (by decide))

/-- XORing a constant into word 0 undoes itself. -/
theorem xorWordZero_injective (k : Word) : Injective fun g : Gimli => setWordAt g 0 (wordAt g 0 ^^^ k) := by
  refine Involutive.injective fun g => gimli_ext fun j _ => ?_
  by_cases hj : 0 = j
  · subst hj
    simp
  · rw [wordAt_setWordAt_ne _ hj, wordAt_setWordAt_ne _ hj]

theorem linearLayer_injective (r : Nat) : Injective fun g => linearLayer g r := by
  obtain hr | hr | hr : r % 4 = 0 ∨ r % 4 = 2 ∨ (r % 4 = 1 ∨ r % 4 = 3) := by omega
  · simp only [linearLayer_of_mod_eq_zero _ hr]
    exact (xorWordZero_injective _).comp smallSwap_injective
  · simp only [linearLayer_of_mod_eq_two _ hr]
    exact bigSwap_injective
  · simp only [linearLayer_of_odd _ hr]
    exact injective_id

/-! ### The rounds -/

theorem gimliRound_injective (r : Nat) : Injective fun g => gimliRound g r :=
  (linearLayer_injective r).comp spLayer_injective

theorem gimliRounds_injective (r : Nat) : Injective (gimliRounds r) := by
  induction r with
  | zero => exact injective_id
  | succ r ih => exact ih.comp (gimliRound_injective (r + 1))

theorem permute_injective : Injective permute := by
  intro g h e
  rw [permute_eq, permute_eq] at e
  exact gimliRounds_injective _ e

/-- There are finitely many states: a state is its 12 words (R30). -/
theorem finite_gimli : Finite Gimli :=
  Finite.of_injective (fun (g : Gimli) (j : Fin 12) => wordAt g j) fun _ _ e =>
    gimli_ext fun j hj => congrFun e ⟨j, hj⟩

/-- Settles O13: P is injective because each layer of each round is, and there are finitely many states. -/
theorem permuteIsBijective : Obligations.PermuteIsBijective :=
  have := finite_gimli
  Finite.injective_iff_bijective.1 permute_injective

end Sys2Proof.Machine
end

section
/-! PROOFS. The commands that act on S (40_permutation.md R139-R143, 43_hash.md R230): which check each can fail, and
its whole next state. -/

namespace Sys2Proof.Machine

variable {s : State} {i : Instr}

/-! ### The checks of a command with at most one region -/

/-- A command with no region passes when its operand and CTX do (R262). -/
theorem firstError_noRegion (ho : operandBad i = false) (hs : sequenceBad i s.ctx = false) (hr : regions i s = []) :
    firstError i s = none := by
  simp [firstError_eq_none_iff, ho, hs, hr, anyConflict]

/-- A command with one region in range passes when its operand and CTX do (R262). -/
theorem firstError_of_inRange {g : Region} (ho : operandBad i = false) (hs : sequenceBad i s.ctx = false)
    (hr : regions i s = [g]) (h : InRange s g.addr g.len) : firstError i s = none := by
  rw [firstError_oneRegion ho hr, hs, (Region.inRange_iff _ g).2 h]
  rfl

/-- A command whose one region is out of range answers RANGE when its operand and CTX pass (R262, R267). -/
theorem firstError_of_not_inRange {g : Region} (ho : operandBad i = false) (hs : sequenceBad i s.ctx = false)
    (hr : regions i s = [g]) (h : ¬InRange s g.addr g.len) : firstError i s = some .range := by
  rw [firstError_oneRegion ho hr, hs, if_neg Bool.false_ne_true, if_neg (mt (Region.inRange_iff _ g).1 h)]

/-- The operand check is the first after decoding (R262). -/
theorem firstError_of_operandBad (h : operandBad i = true) : firstError i s = some .operand := if_pos h

/-- STATE_XOR_BYTE's index is bad from 48 on (R265). -/
theorem operandBad_stateXorByte (idx v : Byte) : operandBad (.stateXorByte idx v) = decide (48 ≤ idx.toNat) := rfl

/-! ### The commands -/

/-- Settles O20: PERMUTE has no check to fail. -/
theorem permuteCommand : Obligations.PermuteCommand := fun _ =>
  exec_permute_ran (firstError_noRegion rfl rfl rfl)

/-- Settles O21: neither command has a check to fail. -/
theorem zeroAndHashInitCommands : Obligations.ZeroAndHashInitCommands := fun _ =>
  ⟨exec_stateZero_ran (firstError_noRegion rfl rfl rfl), exec_hashInit_ran (firstError_noRegion rfl rfl rfl)⟩

/-- The state loaded from DMEM, byte for byte (R141, R69). -/
theorem byteAt_gimliOfBytes_readBytes (m : List Host.Cell) (a : Nat) {i : Nat} (hi : i < 48) :
    byteAt (gimliOfBytes (Memory.readBytes m a Config.stateSize)) i = Memory.read m (a + i) := by
  have hlen : i < (Memory.readBytes m a Config.stateSize).length := by rwa [Memory.length_readBytes]
  rw [byteAt_gimliOfBytes _ hi, List.getD_eq_getElem _ _ hlen, Memory.getElem_readBytes]

/-- In range for a region of 48 bytes, in the words of R72. -/
theorem inRange_stateSize_iff {a : Nat} : InRange s a Config.stateSize ↔ a + 48 ≤ s.params.dmemSize := by
  simp only [InRange, Config.stateSize]
  omega

/-- Settles O22: the one check is that of the region; the state is built from the 48 bytes read. -/
theorem stateLoadCommand : Obligations.StateLoadCommand := by
  refine fun s => ⟨fun h => ⟨gimliOfBytes (s.readBytes (s.operand 0) Config.stateSize), fun i hi => ?_, ?_⟩,
    fun h => ?_⟩
  · exact byteAt_gimliOfBytes_readBytes s.dmem _ hi
  · exact exec_stateLoad_ran (firstError_of_inRange rfl rfl rfl (inRange_stateSize_iff.2 h))
  · exact exec_rejected (firstError_of_not_inRange rfl rfl rfl (mt inRange_stateSize_iff.1 (Nat.not_le.2 h)))

/-- The whole state a completed DMEM write leaves. -/
theorem State.complete_writeBytes (s : State) (a : Nat) (bs : List Byte) (e : ErrCode) :
    (s.writeBytes a bs).complete e =
      { s with dmem := Memory.writeBytes s.dmem a bs, latch := none, done := true, errcode := e } := rfl

/-- Settles O23: the one check is that of the region; DMEM is the old one with the 48 bytes of S written there. -/
theorem stateStoreCommand : Obligations.StateStoreCommand := by
  refine fun s => ⟨fun h => ⟨Memory.writeBytes s.dmem (s.operand 0) (gimliBytes s.gimli 0 Config.stateSize),
    ?_, fun i hi => ?_, fun a ha => ?_⟩, fun h => ?_⟩
  · rw [exec_stateStore_ran (firstError_of_inRange rfl rfl rfl (inRange_stateSize_iff.2 h)), State.complete_writeBytes]
  · rw [Memory.read_writeBytes_inside _ _ _ _ (by rwa [length_gimliBytes]), getElem_gimliBytes, Nat.zero_add]
  · exact Memory.read_writeBytes_of_not_inside _ (by rwa [length_gimliBytes])
  · exact exec_rejected (firstError_of_not_inRange rfl rfl rfl (mt inRange_stateSize_iff.1 (Nat.not_le.2 h)))

/-- Settles O24: the one check is that of IDX; the state is the old one with the byte XORed. -/
theorem stateXorByteCommand : Obligations.StateXorByteCommand := by
  refine fun s idx v => ⟨fun h => ⟨xorByteAt s.gimli idx.toNat v, byteAt_xorByteAt_same _ h v, fun j hj => ?_, ?_⟩,
    fun h => ?_⟩
  · exact byteAt_xorByteAt_ne _ hj.symm v
  · have hop : operandBad (.stateXorByte idx v) = false := by simpa [operandBad_stateXorByte] using h
    exact exec_stateXorByte_ran (firstError_noRegion hop rfl rfl)
  · have hop : operandBad (.stateXorByte idx v) = true := by simpa [operandBad_stateXorByte] using h
    exact exec_rejected (firstError_of_operandBad hop)

end Sys2Proof.Machine
end

section
/-! PROOFS. The duplex helpers at each place POS can stand, and inside one block of 16 bytes (41_duplex.md R170-R174,
R179). -/

namespace Sys2Proof.Machine

variable {p : BitVec 5}

/-! ### A full block: each helper permutes first, and goes on from POS = 0 -/

/-- ensure_room answers the same for a full block and for the permuted one at POS = 0 (R171). -/
theorem ensureRoom_full (g : Gimli) :
    ensureRoom { gimli := g, pos := 16#5 } = ensureRoom { gimli := permute g, pos := 0#5 } := by
  have hroom : (0#5).toNat < 16 := by decide
  rw [ensureRoom_of_full rfl]
  exact (ensureRoom_of_lt hroom).symm

theorem absorbByte_full (g : Gimli) (v : Byte) :
    absorbByte { gimli := g, pos := 16#5 } v = absorbByte { gimli := permute g, pos := 0#5 } v := by
  rw [absorbByte, absorbByte, ensureRoom_full]

theorem absorbPad_full (g : Gimli) (term dom : Byte) :
    absorbPad term { gimli := g, pos := 16#5 } dom = absorbPad term { gimli := permute g, pos := 0#5 } dom := by
  rw [absorbPad, absorbPad, ensureRoom_full]

theorem squeezeByte_full (g : Gimli) :
    squeezeByte { gimli := g, pos := 16#5 } = squeezeByte { gimli := permute g, pos := 0#5 } := by
  rw [squeezeByte, squeezeByte, ensureRoom_full]

theorem squeeze_succ_full (g : Gimli) (n : Nat) :
    squeeze (n + 1) { gimli := g, pos := 16#5 } = squeeze (n + 1) { gimli := permute g, pos := 0#5 } := by
  rw [squeeze, squeeze, squeezeByte_full]

/-! ### One byte with room for it -/

/-- Below POS = 15 the byte goes in and POS advances (R172). -/
theorem absorbByte_of_lt (g : Gimli) (h : p.toNat < 15) (v : Byte) :
    absorbByte { gimli := g, pos := p } v = { gimli := xorByteAt g p.toNat v, pos := p + 1#5 } := by
  have hroom : p.toNat < 16 := by omega
  rw [absorbByte, ensureRoom_of_lt hroom, advanceEager_of_lt _ h]

/-- The byte that fills the block is followed by P at once (R172: the eager step). -/
theorem absorbByte_of_last (g : Gimli) (h : p.toNat = 15) (v : Byte) :
    absorbByte { gimli := g, pos := p } v = { gimli := permute (xorByteAt g p.toNat v), pos := 0#5 } := by
  have hroom : p.toNat < 16 := by omega
  rw [absorbByte, ensureRoom_of_lt hroom, advanceEager_of_last _ h]

/-- Below POS = 16 the state byte comes out and POS advances, to 16 at most: no P (R174: the lazy step). -/
theorem squeezeByte_of_lt (g : Gimli) (h : p.toNat < 16) :
    squeezeByte { gimli := g, pos := p } = (byteAt g p.toNat, { gimli := g, pos := p + 1#5 }) := by
  rw [squeezeByte, ensureRoom_of_lt h]

/-- Settles O15: the block has room, is filled by this byte, or is full already. -/
theorem absorbByteAtEachPosition : Obligations.AbsorbByteAtEachPosition := by
  refine ⟨fun _ => ensureRoom_of_full, fun _ => ensureRoom_of_lt, fun g _ v h => absorbByte_of_lt g h v,
    fun g v => absorbByte_of_last g rfl v, fun g v => ?_, fun _ _ _ => ⟨rfl, rfl⟩⟩
  rw [absorbByte_full]
  exact absorbByte_of_lt _ (by decide) v

/-! ### The pad -/

theorem byteOfWord_xor (v w : Word) (k : Nat) : byteOfWord (v ^^^ w) k = byteOfWord v k ^^^ byteOfWord w k :=
  BitVec.extractLsb'_xor

/-- A word XORed byte by byte is the word XORed (R30). -/
theorem wordAt_eq_xor_of_byteAt {g h : Gimli} {j : Nat} {w : Word}
    (e : ∀ k, k < 4 → byteAt h (4 * j + k) = byteAt g (4 * j + k) ^^^ byteOfWord w k) :
    wordAt h j = wordAt g j ^^^ w := by
  refine word_ext_bytes fun k hk => ?_
  rw [byteOfWord_xor, ← byteAt_four_mul_add h j hk, ← byteAt_four_mul_add g j hk, e k hk]

/-- The bytes of R173's word constant for the terminator 0x80: byte 47 is the last of word 11. -/
theorem byteOfWord_terminator {k : Nat} (hk : k < 4) : byteOfWord 0x80000000#32 k = if k = 3 then 0x80#8 else 0#8 := by
  interval_cases k <;> rfl

/-- The terminator 0x80 in byte 47 is a bit of word 11 (R173). -/
theorem wordAt_eleven_eq_xor {g h : Gimli} (hlast : byteAt h 47 = byteAt g 47 ^^^ 0x80#8)
    (hrest : ∀ i, 44 ≤ i → i < 47 → byteAt h i = byteAt g i) : wordAt h 11 = wordAt g 11 ^^^ 0x80000000#32 := by
  refine wordAt_eq_xor_of_byteAt fun k hk => ?_
  rw [byteOfWord_terminator hk]
  split
  · next h3 => rwa [h3]
  · next h3 => rw [BitVec.xor_zero, hrest _ (by omega) (by omega)]

/-- The state absorb_pad permutes: the domain byte at POS, the terminator at byte 47 (R173). -/
theorem absorbPad_of_lt (g : Gimli) (h : p.toNat < 16) (term dom : Byte) :
    absorbPad term { gimli := g, pos := p } dom =
      { gimli := permute (xorByteAt (xorByteAt g p.toNat dom) 47 term), pos := 0#5 } := by
  rw [absorbPad, ensureRoom_of_lt h]

/-- Settles O16: POS is at most 15, so the two XORs meet different bytes, and word 11 gets the terminator only. -/
theorem absorbPadXorsDomainAndTerminator : Obligations.AbsorbPadXorsDomainAndTerminator := by
  refine ⟨fun g p term dom hp => ?_, absorbPad_full⟩
  have hne : p.toNat ≠ 47 := by omega
  have hlast : byteAt (xorByteAt (xorByteAt g p.toNat dom) 47 term) 47 = byteAt g 47 ^^^ term := by
    rw [byteAt_xorByteAt_same _ (by decide), byteAt_xorByteAt_ne _ hne]
  have hrest : ∀ i, i ≠ p.toNat → i ≠ 47 →
      byteAt (xorByteAt (xorByteAt g p.toNat dom) 47 term) i = byteAt g i := fun i hi h47 => by
    rw [byteAt_xorByteAt_ne _ h47.symm, byteAt_xorByteAt_ne _ hi.symm]
  refine ⟨_, absorbPad_of_lt g (by omega) term dom, ?_, hlast, hrest, fun hterm => ?_⟩
  · rw [byteAt_xorByteAt_ne _ hne.symm, byteAt_xorByteAt_same _ (by omega)]
  · exact wordAt_eleven_eq_xor (hterm ▸ hlast) fun i _ _ => hrest i (by omega) (by omega)

/-! ### Squeezing inside one block -/

/-- The first of n + 1 state bytes, and the others. -/
theorem gimliBytes_succ (g : Gimli) (f n : Nat) :
    gimliBytes g f (n + 1) = byteAt g f :: gimliBytes g (f + 1) n := by
  simp [gimliBytes, List.range_succ_eq_map, Nat.add_comm, Nat.add_left_comm]

/-- While the block lasts, squeezing reads the state bytes from POS on, and S stays (R174). -/
theorem squeeze_within_block (g : Gimli) {n : Nat} (h : p.toNat + n ≤ 16) :
    squeeze n { gimli := g, pos := p } =
      (gimliBytes g p.toNat n, { gimli := g, pos := BitVec.ofNat 5 (p.toNat + n) }) := by
  induction n generalizing p with
  | zero => simp [squeeze, gimliBytes]
  | succ n ih =>
    have hp : (p + 1#5).toNat = p.toNat + 1 := toNat_pos_succ (by omega)
    rw [squeeze, squeezeByte_of_lt g (by omega), ih (by omega), hp, gimliBytes_succ, Nat.add_right_comm, Nat.add_assoc]

/-- A whole block from POS = 0: rate bytes 0..15, and POS = 16 (R174). -/
theorem squeeze_block (g : Gimli) :
    squeeze 16 { gimli := g, pos := 0#5 } = (gimliBytes g 0 16, { gimli := g, pos := 16#5 }) :=
  squeeze_within_block g (p := 0#5) (n := 16) (by decide)

/-- Settles O17: absorb_pad leaves POS = 0, so the first block is S itself; at POS = 16 P comes first. -/
theorem squeezeIsLazy : Obligations.SqueezeIsLazy := by
  refine ⟨fun g _ h => squeezeByte_of_lt g h, fun g => ?_, fun term dom d => squeeze_block _, fun g => ?_,
    fun _ _ => ⟨rfl, rfl⟩⟩
  · rw [squeezeByte_full]
    exact squeezeByte_of_lt _ (by decide)
  · rw [squeeze_succ_full, squeeze_block]

/-! ### Absorbing inside one block -/

/-- A byte string XORed into the state bytes from `f` on: what the block rule does to the rate (R179). -/
def xorBytesAt (g : Gimli) (f : Nat) : List Byte → Gimli
  | [] => g
  | b :: bs => xorBytesAt (xorByteAt g f b) (f + 1) bs

theorem byteAt_xorBytesAt_outside (g : Gimli) {f i : Nat} {bs : List Byte} (h : i < f ∨ f + bs.length ≤ i) :
    byteAt (xorBytesAt g f bs) i = byteAt g i := by
  induction bs generalizing g f with
  | nil => rfl
  | cons b bs ih =>
    rw [List.length_cons] at h
    have hne : f ≠ i := by omega
    rw [xorBytesAt, ih _ (by omega), byteAt_xorByteAt_ne _ hne]

theorem byteAt_xorBytesAt_inside (g : Gimli) {f i : Nat} {bs : List Byte} (hf : f + bs.length ≤ 48)
    (hi : i < bs.length) : byteAt (xorBytesAt g f bs) (f + i) = byteAt g (f + i) ^^^ bs[i] := by
  induction bs generalizing g f i with
  | nil => exact absurd hi (Nat.not_lt_zero i)
  | cons b bs ih =>
    rw [List.length_cons] at hf hi
    rw [xorBytesAt]
    cases i with
    | zero =>
      rw [byteAt_xorBytesAt_outside _ (by omega), Nat.add_zero, byteAt_xorByteAt_same _ (by omega)]
      rfl
    | succ i =>
      have hne : f ≠ f + 1 + i := by omega
      rw [← Nat.add_assoc, Nat.add_right_comm, ih _ (by omega) (by omega), byteAt_xorByteAt_ne _ hne]
      rfl

theorem absorb_cons (d : Sponge) (b : Byte) (bs : List Byte) : absorb d (b :: bs) = absorb (absorbByte d b) bs := rfl

/-- A string that leaves room in the block is XORed in, and POS advances by its length (R172, R179). -/
theorem absorb_within_block (g : Gimli) {bs : List Byte} (h : p.toNat + bs.length < 16) :
    absorb { gimli := g, pos := p } bs =
      { gimli := xorBytesAt g p.toNat bs, pos := BitVec.ofNat 5 (p.toNat + bs.length) } := by
  induction bs generalizing g p with
  | nil => simp [absorb, xorBytesAt]
  | cons b bs ih =>
    rw [List.length_cons] at h
    have hp : (p + 1#5).toNat = p.toNat + 1 := toNat_pos_succ (by omega)
    rw [absorb_cons, absorbByte_of_lt g (by omega), ih _ (by omega), hp, xorBytesAt, List.length_cons,
      Nat.add_right_comm, Nat.add_assoc]

/-- A string that fills the block is XORed in, and P follows (R172, R179). -/
theorem absorb_fills_block (g : Gimli) {bs : List Byte} (hp : p.toNat < 16) (h : p.toNat + bs.length = 16) :
    absorb { gimli := g, pos := p } bs = { gimli := permute (xorBytesAt g p.toNat bs), pos := 0#5 } := by
  induction bs generalizing g p with
  | nil => exact absurd h (Nat.ne_of_lt hp)
  | cons b bs ih =>
    rw [List.length_cons] at h
    rcases Nat.lt_or_ge p.toNat 15 with hlt | hge
    · have hp1 : (p + 1#5).toNat = p.toNat + 1 := toNat_pos_succ (by omega)
      rw [absorb_cons, absorbByte_of_lt g hlt, ih _ (by omega) (by omega), hp1, xorBytesAt]
    · obtain rfl : bs = [] := List.eq_nil_of_length_eq_zero (by omega)
      exact absorbByte_of_last g (by omega) b

/-- Settles O18: the block with its bytes XORed in is `xorBytesAt`. -/
theorem absorbAgreesWithBlockRule : Obligations.AbsorbAgreesWithBlockRule := by
  refine fun g bs hlen => ⟨xorBytesAt g 0 bs, fun i hi => ?_, fun i hi => ?_, fun h => ?_, fun h => ?_⟩
  · have hbyte := byteAt_xorBytesAt_inside g (f := 0) (by omega) hi
    rwa [Nat.zero_add] at hbyte
  · exact byteAt_xorBytesAt_outside g (.inr (by omega))
  · exact absorb_fills_block g (p := 0#5) (by decide) (by rw [h]; rfl)
  · have hpart := absorb_within_block g (p := 0#5) (bs := bs) (by rwa [BitVec.toNat_zero, Nat.zero_add])
    rwa [BitVec.toNat_zero, Nat.zero_add] at hpart

end Sys2Proof.Machine
end

section
/-! PROOFS. The duplex commands (41_duplex.md R175-R178): the whole next state of each, and two of them in a row. -/

namespace Sys2Proof.Machine

variable {s t : State}

/-- Settles O25: the one check is that of the region. -/
theorem duplexAbsorbCommand : Obligations.DuplexAbsorbCommand := fun _ =>
  ⟨fun h => exec_duplexAbsorb_ran (firstError_of_inRange rfl rfl rfl h),
    fun h => exec_rejected (firstError_of_not_inRange rfl rfl rfl h)⟩

/-- Settles O26: DUPLEX_ABSORB_PAD has no check to fail. -/
theorem duplexAbsorbPadCommand : Obligations.DuplexAbsorbPadCommand := fun _ _ =>
  exec_duplexAbsorbPad_ran (firstError_noRegion rfl rfl rfl)

/-- Settles O27: the one check is that of the region; DMEM is the old one with the squeezed bytes written there. -/
theorem duplexSqueezeCommand : Obligations.DuplexSqueezeCommand := by
  refine fun s => ⟨fun h => ⟨Memory.writeBytes s.dmem (s.operand 0) (squeeze (s.operand 1) s.sponge).1,
    ?_, ?_, fun a ha => ?_⟩, fun h => ?_⟩
  · exact exec_duplexSqueeze_ran (firstError_of_inRange rfl rfl rfl h)
  · exact Memory.readBytes_writeBytes_length _ _ (squeeze_length _ _)
  · exact Memory.read_writeBytes_of_not_inside _ (by rwa [squeeze_length])
  · exact exec_rejected (firstError_of_not_inRange rfl rfl rfl h)

/-! ### Two commands in a row -/

theorem State.sponge_eq (hg : t.gimli = s.gimli) (hp : t.pos = s.pos) : t.sponge = s.sponge := by
  rw [State.sponge, State.sponge, hg, hp]

/-- What a DUPLEX_ABSORB that answers OK leaves in S and POS (R175). -/
theorem exec_duplexAbsorb_sponge (h : exec .duplexAbsorb s = .next t) (ho : t.errcode = .ok) :
    t.sponge = absorb s.sponge (s.readBytes (s.operand 0) (s.operand 1)) := by
  rw [exec_duplexAbsorb_ok h ho]
  rfl

/-- What a DUPLEX_SQUEEZE that answers OK leaves in S and POS (R177). -/
theorem exec_duplexSqueeze_sponge (h : exec .duplexSqueeze s = .next t) (ho : t.errcode = .ok) :
    t.sponge = (squeeze (s.operand 1) s.sponge).2 := by
  rw [exec_duplexSqueeze_ok h ho]
  rfl

/-- What a DUPLEX_SQUEEZE that answers OK leaves in its region (R177). -/
theorem exec_duplexSqueeze_readBytes (h : exec .duplexSqueeze s = .next t) (ho : t.errcode = .ok) :
    t.readBytes (s.operand 0) (s.operand 1) = (squeeze (s.operand 1) s.sponge).1 := by
  rw [exec_duplexSqueeze_ok h ho, State.readBytes_squeezeRegion]

/-- Settles O19: `absorb` and `squeeze` may be cut at any byte, and the commands run them on S and POS. -/
theorem absorbAndSqueezeConcatenate : Obligations.AbsorbAndSqueezeConcatenate := by
  refine ⟨fun s₁ t₁ s₂ t₂ r t h₁ ho₁ hg₂ hp₂ h₂ ho₂ hg hp h ho hbytes => ?_,
    fun s₁ t₁ s₂ t₂ r t h₁ ho₁ hg₂ hp₂ h₂ ho₂ hg hp h ho hlen => ?_⟩
  · have hsponge : t.sponge = t₂.sponge := by
      rw [exec_duplexAbsorb_sponge h ho, exec_duplexAbsorb_sponge h₂ ho₂, State.sponge_eq hg₂ hp₂,
        exec_duplexAbsorb_sponge h₁ ho₁, State.sponge_eq hg hp, hbytes, absorb_append]
    exact ⟨congrArg Sponge.gimli hsponge, congrArg Sponge.pos hsponge⟩
  · have hmid : s₂.sponge = (squeeze (s₁.operand 1) s₁.sponge).2 := by
      rw [State.sponge_eq hg₂ hp₂, exec_duplexSqueeze_sponge h₁ ho₁]
    have hsponge : t.sponge = t₂.sponge := by
      rw [exec_duplexSqueeze_sponge h ho, exec_duplexSqueeze_sponge h₂ ho₂, hmid, State.sponge_eq hg hp, hlen,
        squeeze_add]
    refine ⟨?_, congrArg Sponge.gimli hsponge, congrArg Sponge.pos hsponge⟩
    rw [exec_duplexSqueeze_readBytes h ho, exec_duplexSqueeze_readBytes h₁ ho₁, exec_duplexSqueeze_readBytes h₂ ho₂,
      hmid, State.sponge_eq hg hp, hlen, squeeze_add]

end Sys2Proof.Machine
end

section
/-! PROOFS. The steps of the AEAD on byte strings (42_aead.md R201, R203, R204, R206): what is loaded, what a message
byte does, and what the tag comparison answers. -/

namespace Sys2Proof.Machine

/-- Settles O28: state byte i is byte i of the nonce followed by the key. -/
theorem aeadInitLoadsNonceAndKey : Obligations.AeadInitLoadsNonceAndKey := by
  refine fun key nonce hkey hnonce => ⟨gimliOfBytes (nonce ++ key), rfl, fun i hi => ?_, fun i hi => ?_⟩
  · rw [byteAt_gimliOfBytes _ (by omega), List.getD_append _ _ _ _ hi, List.getD_eq_getElem _ _ hi]
  · rw [byteAt_gimliOfBytes _ (by omega), List.getD_append_right _ _ _ _ (by omega), hnonce, Nat.add_sub_cancel_left,
      List.getD_eq_getElem _ _ hi]

/-! ### One message byte -/

/-- The eager step permutes exactly after rate byte 15 (R203, R204). -/
theorem advanceEager_eq (g : Gimli) (p : BitVec 5) :
    advanceEager g p = if p = 15#5 then { gimli := permute g, pos := 0#5 } else { gimli := g, pos := p + 1#5 } := by
  have hlast : p + 1#5 = 16#5 ↔ p = 15#5 := by
    revert p
    decide
  simp only [advanceEager, hlast]

/-- Settles O29: encrypting XORs into the rate byte, decrypting replaces it, and the eager step ends both; the loops are
their own equations. -/
theorem messageByteGoesThroughTheRate : Obligations.MessageByteGoesThroughTheRate := by
  refine ⟨fun g p v hp => ⟨xorByteAt g p.toNat v, ?_, fun j hj => byteAt_xorByteAt_ne g hj.symm v, ?_⟩,
    fun g p c hp => ⟨setByteAt g p.toNat c, ?_, fun j hj => byteAt_setByteAt_ne g hj.symm c, ?_⟩,
    fun _ _ _ => ⟨rfl, rfl, rfl, rfl⟩, fun _ => ⟨rfl, rfl⟩⟩
  · exact byteAt_xorByteAt_same g (by omega) v
  · rw [encryptByte, byteAt_xorByteAt_same g (by omega), advanceEager_eq]
  · exact byteAt_setByteAt_same g (by omega) c
  · rw [decryptByte, advanceEager_eq]

/-! ### The tag comparison -/

/-- Settles O32: the comparison answers whether the strings are equal, and strings of one length are equal when their
bytes are. -/
theorem tagComparisonIsEquality : Obligations.TagComparisonIsEquality := by
  intro t u ht hu
  rw [tagEqual_iff (ht.trans hu.symm)]
  constructor
  · rintro rfl i -
    rfl
  · intro h
    refine List.ext_getElem (ht.trans hu.symm) fun i hit hiu => ?_
    rw [← List.getD_eq_getElem t 0#8 hit, ← List.getD_eq_getElem u 0#8 hiu]
    exact h i (ht ▸ hit)

end Sys2Proof.Machine
end

section
/-! PROOFS. The AEAD commands (42_aead.md R207-R209, R211; 60_exceptions.md R262, R267-R270): which checks they make,
the whole next state of each, and the one after the other. -/

namespace Sys2Proof.Machine

variable {s t u : State}

/-! ### The checks -/

theorem Apart.symm {a m b n : Nat} (h : Apart a m b n) : Apart b n a m := by
  simp only [Apart] at h ⊢
  omega

/-- Two regions are no forbidden pair: neither is written, or no byte belongs to both (R268). -/
theorem Region.conflicts_eq_false_iff (g h : Region) : g.conflicts h = false ↔
    (g.access.writes = false ∧ h.access.writes = false) ∨ Apart g.addr g.len h.addr h.len := by
  rw [Region.conflicts, Bool.and_eq_false_iff, Bool.or_eq_false_iff, Region.overlaps_eq_false_iff]

/-- The key, the nonce, the AAD, the buffer and the tag are in range (R72, R200). -/
structure AeadInRange (s : State) : Prop where
  key : InRange s (s.operand 0) 32
  nonce : InRange s (s.operand 1) 16
  aad : InRange s (s.operand 2) (s.operand 3)
  buffer : InRange s (s.operand 4) (s.operand 5)
  tag : InRange s (s.operand 6) 16

/-- The bytes at `a`, `n` of them, share none with the key, the nonce or the AAD (R74, R200). -/
structure ApartFromAeadInputs (s : State) (a n : Nat) : Prop where
  key : Apart a n (s.operand 0) 32
  nonce : Apart a n (s.operand 1) 16
  aad : Apart a n (s.operand 2) (s.operand 3)

/-- The buffer, which both commands write, is apart from the other four regions (R268). -/
structure AeadBufferApart (s : State) : Prop where
  inputs : ApartFromAeadInputs s (s.operand 4) (s.operand 5)
  tag : Apart (s.operand 4) (s.operand 5) (s.operand 6) 16

/-- The regions of both commands are in range together (R93, R200). -/
theorem regions_aead_inRange_iff {i : Instr} (hi : i = .aeadEncrypt ∨ i = .aeadDecrypt) :
    (∀ g ∈ regions i s, g.inRange s.params.dmemSize = true) ↔ AeadInRange s := by
  obtain rfl | rfl := hi <;>
  · simp only [regions, List.forall_mem_cons, Region.inRange_iff]
    exact ⟨fun ⟨hk, hn, ha, hb, ht, _⟩ => ⟨hk, hn, ha, hb, ht⟩,
      fun ⟨hk, hn, ha, hb, ht⟩ => ⟨hk, hn, ha, hb, ht, List.forall_mem_nil _⟩⟩

/-- AEAD_ENCRYPT passes its checks exactly with its regions in range, and the buffer and the tag apart from each other
and from the inputs (R262, R268). -/
theorem firstError_aeadEncrypt_eq_none_iff : firstError .aeadEncrypt s = none ↔
    AeadInRange s ∧ AeadBufferApart s ∧ ApartFromAeadInputs s (s.operand 6) 16 := by
  rw [firstError_eq_none_iff, regions_aead_inRange_iff (.inl rfl), anyConflict_eq_false_iff]
  simp only [operandBad, sequenceBad, true_and, regions, List.pairwise_cons, List.forall_mem_cons,
    Region.conflicts_eq_false_iff, Access.writes, Bool.true_eq_false, false_and, false_or, true_or]
  constructor
  · rintro ⟨hin, ⟨bkey, tkey, -⟩, ⟨bnonce, tnonce, -⟩, ⟨baad, taad, -⟩, ⟨btag, -⟩, -⟩
    exact ⟨hin, ⟨⟨bkey.symm, bnonce.symm, baad.symm⟩, btag⟩, ⟨tkey.symm, tnonce.symm, taad.symm⟩⟩
  · rintro ⟨hin, ⟨⟨bkey, bnonce, baad⟩, btag⟩, ⟨tkey, tnonce, taad⟩⟩
    simp [hin, bkey.symm, tkey.symm, bnonce.symm, tnonce.symm, baad.symm, taad.symm, btag]

/-- AEAD_DECRYPT passes its checks with its regions in range and the buffer apart from the other four (R262, R268). -/
theorem firstError_aeadDecrypt_of_apart (hin : AeadInRange s) (hbuf : AeadBufferApart s) :
    firstError .aeadDecrypt s = none := by
  rw [firstError_eq_none_iff, regions_aead_inRange_iff (.inr rfl), anyConflict_eq_false_iff]
  obtain ⟨⟨bkey, bnonce, baad⟩, btag⟩ := hbuf
  simp [operandBad, sequenceBad, regions, Region.conflicts_eq_false_iff, Access.writes, hin, bkey.symm, bnonce.symm,
    baad.symm, btag]

/-- A command that answers OK has passed its checks (R260). -/
theorem firstError_of_ok {i : Instr} (h : exec i s = .next t) (ho : t.errcode = .ok) : firstError i s = none := by
  obtain ⟨body, hb, -⟩ := exec_spec i s
  exact (State.attempt_ok (Host.Outcome.next.inj (hb.symm.trans h)) ho).1

/-! ### The whole next state -/

/-- The state an AEAD command leaves: S, POS and CTX scrubbed, DMEM `m`, and the completion with `e` (R209, R270). -/
def State.aeadDone (s : State) (m : List Host.Cell) (e : ErrCode) : State :=
  { s with
    gimli := Vector.replicate 12 0#32, pos := 0#5, ctx := .none, dmem := m, latch := none, done := true, errcode := e }

theorem State.complete_scrub (s : State) (e : ErrCode) : s.scrub.complete e = s.aeadDone s.dmem e := rfl

@[simp] theorem State.aeadDone_params (s : State) (m : List Host.Cell) (e : ErrCode) :
    (s.aeadDone m e).params = s.params := rfl

@[simp] theorem State.aeadDone_dmem (s : State) (m : List Host.Cell) (e : ErrCode) : (s.aeadDone m e).dmem = m := rfl

theorem State.aeadDone_writeBytes (s : State) (a : Nat) (bs : List Byte) (m : List Host.Cell) (e : ErrCode) :
    (s.writeBytes a bs).aeadDone m e = s.aeadDone m e := rfl

/-- DMEM with the ciphertext over the buffer, then the tag (R207). -/
def State.sealedDmem (s : State) : List Host.Cell :=
  Memory.writeBytes (Memory.writeBytes s.dmem (s.operand 4) s.aeadEncrypted.1) (s.operand 6)
    (tagOf s.params.tagBase s.aeadEncrypted.2.gimli)

theorem exec_aeadEncrypt_eq (h : firstError .aeadEncrypt s = none) :
    exec .aeadEncrypt s = .next (s.aeadDone s.sealedDmem .ok) := by
  rw [exec_aeadEncrypt_ran h, State.complete_scrub, State.aeadDone_writeBytes, State.aeadDone_writeBytes,
    State.writeBytes_dmem, State.writeBytes_dmem, State.sealedDmem]

/-- The ciphertext stands in the buffer, which the tag does not touch (R207). -/
theorem readBytes_sealedDmem_buffer (h : Apart (s.operand 4) (s.operand 5) (s.operand 6) 16) :
    Memory.readBytes s.sealedDmem (s.operand 4) (s.operand 5) = s.aeadEncrypted.1 := by
  rw [State.sealedDmem, Memory.readBytes_writeBytes_disjoint _ _ _ _ _ (by rw [tagOf_length]; exact h.symm),
    Memory.readBytes_writeBytes_length _ _ s.aeadEncrypted_length]

theorem readBytes_sealedDmem_tag (s : State) :
    Memory.readBytes s.sealedDmem (s.operand 6) 16 = tagOf s.params.tagBase s.aeadEncrypted.2.gimli :=
  Memory.readBytes_writeBytes_length _ _ (tagOf_length _ _)

/-- Byte i of the tag is state byte TAG_BASE + i (R205). -/
theorem read_sealedDmem_tag (s : State) {i : Nat} (hi : i < 16) : Memory.read s.sealedDmem (s.operand 6 + i) =
    byteAt s.aeadEncrypted.2.gimli (s.params.tagBase.val + i) := by
  have hlen : i < (tagOf s.params.tagBase s.aeadEncrypted.2.gimli).length := by rwa [tagOf_length]
  rw [State.sealedDmem, Memory.read_writeBytes_inside _ _ _ _ hlen]
  exact getElem_gimliBytes _ _ _ _ hlen

/-- Every byte outside the buffer and the tag is as before (R207). -/
theorem read_sealedDmem_outside {a : Nat} (hbuf : ¬Inside a (s.operand 4) (s.operand 5))
    (htag : ¬Inside a (s.operand 6) 16) : Memory.read s.sealedDmem a = Memory.read s.dmem a := by
  rw [State.sealedDmem, Memory.read_writeBytes_of_not_inside _ (by rwa [tagOf_length]),
    Memory.read_writeBytes_of_not_inside _ (by rwa [State.aeadEncrypted_length])]

/-- DMEM with the candidate plaintext over the buffer (R208). -/
def State.openedDmem (s : State) : List Host.Cell := Memory.writeBytes s.dmem (s.operand 4) s.aeadDecrypted.1

/-- The tag the decryption computes is the one that stands in DMEM (R205, R206). -/
def State.TagVerifies (s : State) : Prop :=
  Memory.readBytes s.dmem (s.operand 6) 16 = tagOf s.params.tagBase s.aeadDecrypted.2.gimli

/-- The comparison reads the provided tag after the buffer has been written, which does not touch it (R206, R208). -/
theorem tagEqual_aeadDecrypted_iff (h : Apart (s.operand 4) (s.operand 5) (s.operand 6) 16) :
    tagEqual (tagOf s.params.tagBase s.aeadDecrypted.2.gimli)
      ((s.writeBytes (s.operand 4) s.aeadDecrypted.1).readBytes (s.operand 6) Config.tagSize) = true ↔
      s.TagVerifies := by
  rw [State.readBytes, State.writeBytes_dmem, Memory.readBytes_writeBytes_disjoint _ _ _ _ _
    (by rw [State.aeadDecrypted_length]; exact h), tagEqual_iff (by simp), eq_comm, State.TagVerifies]

/-- With the right tag the plaintext stays (R208). -/
theorem exec_aeadDecrypt_of_tagVerifies (hin : AeadInRange s) (hbuf : AeadBufferApart s) (h : s.TagVerifies) :
    exec .aeadDecrypt s = .next (s.aeadDone s.openedDmem .ok) := by
  rw [exec_aeadDecrypt_ran (firstError_aeadDecrypt_of_apart hin hbuf),
    if_pos ((tagEqual_aeadDecrypted_iff hbuf.tag).2 h), State.complete_scrub, State.aeadDone_writeBytes,
    State.writeBytes_dmem, State.openedDmem]

/-- With a wrong tag the buffer is zeroed over the candidate plaintext (R208, R269). -/
theorem exec_aeadDecrypt_of_not_tagVerifies (hin : AeadInRange s) (hbuf : AeadBufferApart s) (h : ¬s.TagVerifies) :
    exec .aeadDecrypt s = .next (s.aeadDone
      (Memory.writeBytes s.openedDmem (s.operand 4) (List.replicate (s.operand 5) 0#8)) .authFail) := by
  rw [exec_aeadDecrypt_ran (firstError_aeadDecrypt_of_apart hin hbuf),
    if_neg (mt (tagEqual_aeadDecrypted_iff hbuf.tag).1 h), State.complete_scrub, State.aeadDone_writeBytes,
    State.aeadDone_writeBytes, State.writeBytes_dmem, State.writeBytes_dmem, State.openedDmem]

theorem readBytes_openedDmem_buffer (s : State) :
    Memory.readBytes s.openedDmem (s.operand 4) (s.operand 5) = s.aeadDecrypted.1 :=
  Memory.readBytes_writeBytes_length _ _ s.aeadDecrypted_length

theorem read_openedDmem_outside {a : Nat} (h : ¬Inside a (s.operand 4) (s.operand 5)) :
    Memory.read s.openedDmem a = Memory.read s.dmem a :=
  Memory.read_writeBytes_of_not_inside _ (by rwa [State.aeadDecrypted_length])

/-- Settles O30: the checks pass, and DMEM is the old one with the ciphertext and then the tag written. -/
theorem aeadEncryptCommand : Obligations.AeadEncryptCommand := by
  rintro s k r rkey rnonce raad rbuf rtag bkey bnonce baad btag tkey tnonce taad rfl rfl
  have hran : firstError .aeadEncrypt s = none := firstError_aeadEncrypt_eq_none_iff.2
    ⟨⟨rkey, rnonce, raad, rbuf, rtag⟩, ⟨⟨bkey, bnonce, baad⟩, btag⟩, ⟨tkey, tnonce, taad⟩⟩
  exact ⟨s.sealedDmem, exec_aeadEncrypt_eq hran, readBytes_sealedDmem_buffer btag, fun _ => read_sealedDmem_tag s,
    fun _ => read_sealedDmem_outside⟩

/-- Settles O31: the checks pass, and the tag decides whether the plaintext stays or is zeroed. -/
theorem aeadDecryptCommand : Obligations.AeadDecryptCommand := by
  rintro s k r tag rkey rnonce raad rbuf rtag bkey bnonce baad btag rfl rfl rfl
  have hin : AeadInRange s := ⟨rkey, rnonce, raad, rbuf, rtag⟩
  have hbuf : AeadBufferApart s := ⟨⟨bkey, bnonce, baad⟩, btag⟩
  by_cases h : s.TagVerifies
  · exact ⟨s.openedDmem, .ok, exec_aeadDecrypt_of_tagVerifies hin hbuf h,
      fun _ => ⟨rfl, readBytes_openedDmem_buffer s⟩, fun hne => absurd h hne, fun a => read_openedDmem_outside⟩
  · refine ⟨_, .authFail, exec_aeadDecrypt_of_not_tagVerifies hin hbuf h, fun he => absurd he h,
      fun _ => ⟨rfl, Memory.readBytes_writeBytes_length _ _ List.length_replicate⟩, fun a ha => ?_⟩
    rw [Memory.read_writeBytes_of_not_inside _ (by rwa [List.length_replicate]), read_openedDmem_outside ha]

/-! ### Decrypting what has been encrypted -/

/-- Equal regions hold equal bytes (R72). -/
theorem Memory.read_eq_of_readBytes_eq {m m' : List Host.Cell} {a addr n : Nat}
    (h : Memory.readBytes m addr n = Memory.readBytes m' addr n) (ha : Inside a addr n) :
    Memory.read m a = Memory.read m' a := by
  obtain ⟨i, rfl⟩ := Nat.exists_eq_add_of_le ha.1
  have hi : i < n := by omega
  rw [← Memory.getElem_readBytes m addr n i (by rwa [Memory.length_readBytes]),
    ← Memory.getElem_readBytes m' addr n i (by rwa [Memory.length_readBytes])]
  simp only [h]

/-- AEAD_ENCRYPT leaves what neither of its two writes touches (R207). -/
theorem readBytes_sealedDmem_of_apart {a n : Nat} (hbuf : Apart (s.operand 4) (s.operand 5) a n)
    (htag : Apart (s.operand 6) 16 a n) : Memory.readBytes s.sealedDmem a n = Memory.readBytes s.dmem a n := by
  rw [State.sealedDmem, Memory.readBytes_writeBytes_disjoint _ _ _ _ _ (by rwa [tagOf_length]),
    Memory.readBytes_writeBytes_disjoint _ _ _ _ _ (by rwa [State.aeadEncrypted_length])]

section
variable (hop : ∀ i, u.operand i = s.operand i)
include hop

/-- Which regions share bytes is a matter of the operands (R74). -/
theorem aeadBufferApart_congr (h : AeadBufferApart s) : AeadBufferApart u := by
  obtain ⟨⟨hkey, hnonce, haad⟩, htag⟩ := h
  exact ⟨by constructor <;> simpa only [hop], by simpa only [hop]⟩

variable (hparams : u.params = s.params)
include hparams

/-- Which regions are in range is a matter of the operands and DMEM_SIZE (R72). -/
theorem aeadInRange_congr (h : AeadInRange s) : AeadInRange u := by
  obtain ⟨hkey, hnonce, haad, hbuf, htag⟩ := h
  constructor <;> simpa only [InRange, hparams, hop]

variable (hdmem : u.dmem = s.sealedDmem)
include hdmem

/-- Key, nonce and AAD being as they were, both commands start the message phase from the same S and POS. -/
theorem aeadKeyed_of_sealed (hbuf : ApartFromAeadInputs s (s.operand 4) (s.operand 5))
    (htag : ApartFromAeadInputs s (s.operand 6) 16) : u.aeadKeyed = s.aeadKeyed := by
  simp only [State.aeadKeyed, State.readBytes, hparams, hdmem, hop,
    readBytes_sealedDmem_of_apart hbuf.key htag.key, readBytes_sealedDmem_of_apart hbuf.nonce htag.nonce,
    readBytes_sealedDmem_of_apart hbuf.aad htag.aad]

/-- The decryption of a sealed buffer gives the message, and the S and POS of the encryption (R204, R211). -/
theorem aeadDecrypted_of_sealed (hbuf : AeadBufferApart s) (htag : ApartFromAeadInputs s (s.operand 6) 16) :
    u.aeadDecrypted = (s.aeadBuffer, s.aeadEncrypted.2) := by
  have hbuffer : u.aeadBuffer = (encryptBytes s.aeadKeyed s.aeadBuffer).1 := by
    rw [State.aeadBuffer, State.readBytes, hdmem, hop, hop, readBytes_sealedDmem_buffer hbuf.tag, State.aeadEncrypted]
  have hpos : s.aeadKeyed.pos.toNat ≤ 15 := by simp [State.aeadKeyed]
  simp only [State.aeadDecrypted, State.aeadEncrypted, hbuffer, hparams,
    aeadKeyed_of_sealed hop hparams hdmem hbuf.inputs htag, decryptBytes_encryptBytes hpos]

/-- The tag that AEAD_ENCRYPT has written is the one that AEAD_DECRYPT computes (R205, R211). -/
theorem tagVerifies_of_sealed (hbuf : AeadBufferApart s) (htag : ApartFromAeadInputs s (s.operand 6) 16) :
    u.TagVerifies := by
  rw [State.TagVerifies, aeadDecrypted_of_sealed hop hparams hdmem hbuf htag, hparams, hdmem, hop,
    readBytes_sealedDmem_tag]

end

/-- Settles O33: the sealed DMEM decrypts to the message and the tag that stands in it verifies. -/
theorem aeadRoundTrip : Obligations.AeadRoundTrip := by
  intro s t u h ho hparams hdmem hop
  have hran : firstError .aeadEncrypt s = none := firstError_of_ok h ho
  obtain ⟨hin, hbuf, htag⟩ := firstError_aeadEncrypt_eq_none_iff.1 hran
  obtain rfl := Host.Outcome.next.inj ((exec_aeadEncrypt_eq hran).symm.trans h)
  rw [State.aeadDone_params] at hparams
  rw [State.aeadDone_dmem] at hdmem
  have hmsg : Memory.readBytes u.openedDmem (s.operand 4) (s.operand 5) = s.aeadBuffer := by
    rw [← hop 4, ← hop 5, readBytes_openedDmem_buffer, aeadDecrypted_of_sealed hop hparams hdmem hbuf htag]
  refine ⟨u.aeadDone u.openedDmem .ok, ?_, rfl, hmsg, fun a ha => ?_⟩
  · exact exec_aeadDecrypt_of_tagVerifies (aeadInRange_congr hop hparams hin) (aeadBufferApart_congr hop hbuf)
      (tagVerifies_of_sealed hop hparams hdmem hbuf htag)
  · rw [State.aeadDone_dmem]
    by_cases hmem : Inside a (s.operand 4) (s.operand 5)
    · exact Memory.read_eq_of_readBytes_eq hmsg hmem
    · rw [read_openedDmem_outside (by rwa [hop, hop]), hdmem, read_sealedDmem_outside hmem ha]

end Sys2Proof.Machine
end

section
/-! PROOFS. The hash commands (43_hash.md R231-R234; 60_exceptions.md R262, R266-R268): which checks they make, and the
whole next state of each. -/

namespace Sys2Proof.Machine

variable {s : State} {i : Instr}

/-! ### The checks -/

/-- HASH_UPDATE, HASH_FINALIZE and HASH_FINALIZE_XOF, and no other command, ask for CTX = HASH (R266). -/
theorem sequenceBad_iff {c : Ctx} : sequenceBad i c = true ↔
    (i = .hashUpdate ∨ i = .hashFinalize ∨ i = .hashFinalizeXof) ∧ c ≠ .hash := by
  cases i <;> simp [sequenceBad]

/-- With CTX = HASH no command is out of sequence (R266). -/
theorem sequenceBad_of_ctx_hash (h : s.ctx = .hash) : sequenceBad i s.ctx = false :=
  Bool.eq_false_of_not_eq_true fun hs => (sequenceBad_iff.1 hs).2 h

/-- SEQUENCE comes before the regions are looked at (R262). -/
theorem firstError_of_sequenceBad (ho : operandBad i = false) (hs : sequenceBad i s.ctx = true) :
    firstError i s = some .sequence := by
  rw [firstError, ho, hs, if_neg Bool.false_ne_true, if_pos rfl]

/-- The three commands that go on with a hash are rejected when none is in progress (R266). -/
theorem firstError_of_ctx_ne_hash (hi : i = .hashUpdate ∨ i = .hashFinalize ∨ i = .hashFinalizeXof)
    (h : s.ctx ≠ .hash) : firstError i s = some .sequence := by
  refine firstError_of_sequenceBad ?_ (sequenceBad_iff.2 ⟨hi, h⟩)
  obtain rfl | rfl | rfl := hi <;> rfl

/-- In range for a digest, in the words of R72. -/
theorem inRange_digestSize_iff {a : Nat} : InRange s a Config.digestSize ↔ a + 32 ≤ s.params.dmemSize := by
  simp only [InRange, Config.digestSize]
  omega

/-- One-shot HASH asks for both its regions in range, and then for the input apart from the digest (R262, R268). -/
theorem firstError_hash : firstError .hash s =
    if InRange s (s.operand 0) (s.operand 1) ∧ s.operand 2 + 32 ≤ s.params.dmemSize then
      if Apart (s.operand 0) (s.operand 1) (s.operand 2) 32 then none else some .overlap
    else some .range := by
  have hrange : (regions .hash s).all (Region.inRange s.params.dmemSize) = true ↔
      InRange s (s.operand 0) (s.operand 1) ∧ s.operand 2 + 32 ≤ s.params.dmemSize := by
    simp only [List.all_eq_true, regions, List.forall_mem_cons, Region.inRange_iff, List.not_mem_nil, false_imp_iff,
      implies_true, and_true]
    exact and_congr_right fun _ => inRange_digestSize_iff
  have hapart : anyConflict (regions .hash s) = false ↔ Apart (s.operand 0) (s.operand 1) (s.operand 2) 32 := by
    simp [anyConflict_eq_false_iff, regions, Region.conflicts_eq_false_iff, Access.writes]
  simp only [firstError, operandBad, sequenceBad, Bool.false_eq_true, if_false, Bool.not_eq_true', ← hrange, ← hapart]
  cases (regions .hash s).all (Region.inRange s.params.dmemSize) <;> cases anyConflict (regions .hash s) <;> rfl

/-! ### What a finished hash leaves -/

/-- 32 bytes from POS = 0: two rate blocks with one permutation between them (R232). -/
theorem squeeze_digest (g : Gimli) : squeeze Config.digestSize { gimli := g, pos := 0#5 } =
    (gimliBytes g 0 16 ++ gimliBytes (permute g) 0 16, { gimli := permute g, pos := 16#5 }) := by
  rw [show Config.digestSize = 16 + 16 from rfl, squeeze_add, squeeze_block, squeeze_succ_full, squeeze_block]

/-- A squeezed byte leaves POS one further in the block it came from (R174). -/
theorem toNat_squeezeByte_pos {d : Sponge} (h : d.pos.toNat ≤ 16) :
    (squeezeByte d).2.pos.toNat = d.pos.toNat % 16 + 1 := by
  obtain ⟨g, p⟩ := d
  rcases Nat.lt_or_ge p.toNat 16 with hlt | hge
  · rw [squeezeByte_of_lt g hlt, toNat_pos_succ h, Nat.mod_eq_of_lt hlt]
  · obtain rfl : p = 16#5 := BitVec.eq_of_toNat_eq (Nat.le_antisymm h hge)
    rw [squeezeByte_full, squeezeByte_of_lt _ (by decide), toNat_pos_succ (by decide)]
    simp

/-- Where POS stands after squeezing at least one byte: in 1..16, since the step is lazy (R174). -/
theorem toNat_squeeze_succ_pos {d : Sponge} (h : d.pos.toNat ≤ 16) (n : Nat) :
    (squeeze (n + 1) d).2.pos.toNat = (d.pos.toNat + n) % 16 + 1 := by
  induction n generalizing d with
  | zero => exact toNat_squeezeByte_pos h
  | succ n ih =>
    rw [squeeze, ih (squeezeByte_pos h), toNat_squeezeByte_pos h]
    omega

/-- Where POS ends after an output of `n` bytes from POS = 0 (R233). -/
theorem toNat_squeeze_pos_of_zero {d : Sponge} (h : d.pos = 0#5) (n : Nat) :
    (squeeze n d).2.pos.toNat = if n = 0 then 0 else if n % 16 = 0 then 16 else n % 16 := by
  have h0 : d.pos.toNat = 0 := by rw [h]; rfl
  cases n with
  | zero => exact h0
  | succ n =>
    rw [toNat_squeeze_succ_pos (by omega), h0]
    split_ifs <;> omega

/-- The state a finished hash leaves: S and POS from the squeeze, CTX = HASH_FINAL, DMEM `m`, and the completion (R232,
R233, R234, R270). -/
def State.hashDone (s : State) (d : Sponge) (m : List Host.Cell) : State :=
  { s with
    gimli := d.gimli, pos := d.pos, ctx := .hashFinal, dmem := m, latch := none, done := true, errcode := .ok }

/-- The pad, the squeeze into a region and CTX <- HASH_FINAL, as one next state: the region holds the squeezed bytes,
and every byte outside it is as before (R232, R233). -/
theorem State.complete_finishHash (s : State) (a n : Nat) {d : Sponge}
    (hd : absorbPad s.params.padTerm s.sponge Config.domain = d) :
    ∃ m, (s.finishHash a n).complete .ok = s.hashDone (squeeze n d).2 m ∧
      Memory.readBytes m a n = (squeeze n d).1 ∧
      ∀ x, ¬Inside x a n → Memory.read m x = Memory.read s.dmem x := by
  subst hd
  exact ⟨Memory.writeBytes s.dmem a _, rfl, Memory.readBytes_writeBytes_length _ _ (squeeze_length _ _),
    fun x hx => Memory.read_writeBytes_of_not_inside _ (by rwa [squeeze_length])⟩

/-- The next state for a digest, `g` being S after the pad (R232, R234). -/
theorem State.complete_finishHash_digest (s : State) (a : Nat) {g : Gimli}
    (hg : g = (absorbPad s.params.padTerm s.sponge Config.domain).gimli) :
    ∃ m, (s.finishHash a Config.digestSize).complete .ok = s.hashDone { gimli := permute g, pos := 16#5 } m ∧
      Memory.readBytes m a 32 = gimliBytes g 0 16 ++ gimliBytes (permute g) 0 16 ∧
      ∀ x, ¬Inside x a 32 → Memory.read m x = Memory.read s.dmem x := by
  have hpad : absorbPad s.params.padTerm s.sponge Config.domain = { gimli := g, pos := 0#5 } := by rw [hg]; rfl
  have hdone := s.complete_finishHash a Config.digestSize hpad
  rwa [squeeze_digest] at hdone

/-! ### The commands -/

/-- Settles O34: CTX is checked before the region. -/
theorem hashUpdateCommand : Obligations.HashUpdateCommand := fun _ =>
  ⟨fun hc hr => exec_hashUpdate_ran (firstError_of_inRange rfl (sequenceBad_of_ctx_hash hc) rfl hr),
    fun hc => exec_rejected (firstError_of_ctx_ne_hash (.inl rfl) hc),
    fun hc hr => exec_rejected (firstError_of_not_inRange rfl (sequenceBad_of_ctx_hash hc) rfl hr)⟩

/-- Settles O35: CTX is checked before the region; the digest is squeezed from the padded state. -/
theorem hashFinalizeCommand : Obligations.HashFinalizeCommand := by
  refine fun s g hg => ⟨fun hc hr => ?_, fun hc => ?_, fun hc hr => ?_⟩
  · rw [exec_hashFinalize_ran
      (firstError_of_inRange rfl (sequenceBad_of_ctx_hash hc) rfl (inRange_digestSize_iff.2 hr))]
    obtain ⟨m, hdone, hdigest, hframe⟩ := s.complete_finishHash_digest (s.operand 0) hg
    exact ⟨m, congrArg _ hdone, hdigest, hframe⟩
  · exact exec_rejected (firstError_of_ctx_ne_hash (.inr (.inl rfl)) hc)
  · exact exec_rejected (firstError_of_not_inRange rfl (sequenceBad_of_ctx_hash hc) rfl
      (mt inRange_digestSize_iff.1 (Nat.not_le.2 hr)))

/-- Settles O36: CTX is checked before the region; the pad leaves POS = 0, which decides where POS ends. -/
theorem hashFinalizeXofCommand : Obligations.HashFinalizeXofCommand := by
  refine fun s d hd => ⟨fun hc hr => ?_, fun hc => ?_, fun hc hr => ?_⟩
  · rw [exec_hashFinalizeXof_ran (firstError_of_inRange rfl (sequenceBad_of_ctx_hash hc) rfl hr)]
    obtain ⟨m, hdone, hout, hframe⟩ := s.complete_finishHash (s.operand 0) (s.operand 1) hd.symm
    have hpos : d.pos = 0#5 := by rw [hd, absorbPad_pos]
    exact ⟨m, (squeeze (s.operand 1) d).2.pos, congrArg _ hdone, toNat_squeeze_pos_of_zero hpos _, hout, hframe⟩
  · exact exec_rejected (firstError_of_ctx_ne_hash (.inr (.inr rfl)) hc)
  · exact exec_rejected (firstError_of_not_inRange rfl (sequenceBad_of_ctx_hash hc) rfl hr)

/-- Settles O37: no check looks at CTX; the digest is that of the zero state with the input absorbed. -/
theorem hashCommand : Obligations.HashCommand := by
  refine fun s g hg => ⟨fun hin hout hapart => ?_, fun hr => ?_, fun hin hout hapart => ?_⟩
  · rw [exec_hash_ran (by rw [firstError_hash, if_pos ⟨hin, hout⟩, if_pos hapart])]
    obtain ⟨m, hdone, hdigest, hframe⟩ := State.complete_finishHash_digest
      ((s.setSponge { gimli := zeroGimli, pos := 0#5 }).absorbRegion (s.operand 0) (s.operand 1)) (s.operand 2) hg
    exact ⟨m, congrArg _ hdone, hdigest, hframe⟩
  · exact exec_rejected (by rw [firstError_hash, if_neg (by omega)])
  · exact exec_rejected (by rw [firstError_hash, if_pos ⟨hin, hout⟩, if_neg hapart])

end Sys2Proof.Machine
end

section
/-! PROOFS. The laws of the hash (43_hash.md R235, R236): hashing in chunks, a shorter XOF and a longer one, and the CTX
that each command leaves. -/

namespace Sys2Proof.Machine

variable {s t : State} {i : Instr}

/-! ### What a hash command that answers OK leaves -/

/-- A hash or XOF of `n` bytes has ended in this state: the bytes squeezed from `d` stand at `a`, S and POS are those
after the squeeze, and CTX = HASH_FINAL (R232, R233, R234). -/
structure State.HashEnded (t : State) (d : Sponge) (a n : Nat) : Prop where
  output : t.readBytes a n = (squeeze n d).1
  sponge : t.sponge = (squeeze n d).2
  ctx : t.ctx = .hashFinal

theorem State.hashEnded_finishHash (s : State) (a n : Nat) : ((s.finishHash a n).complete .ok).HashEnded
    (absorbPad s.params.padTerm s.sponge Config.domain) a n :=
  ⟨s.readBytes_finishHash a n .ok, rfl, rfl⟩

theorem exec_hashFinalize_ended (h : exec .hashFinalize s = .next t) (ho : t.errcode = .ok) :
    t.HashEnded (absorbPad s.params.padTerm s.sponge Config.domain) (s.operand 0) Config.digestSize := by
  rw [exec_hashFinalize_ok h ho]
  exact s.hashEnded_finishHash _ _

theorem exec_hashFinalizeXof_ended (h : exec .hashFinalizeXof s = .next t) (ho : t.errcode = .ok) :
    t.HashEnded (absorbPad s.params.padTerm s.sponge Config.domain) (s.operand 0) (s.operand 1) := by
  rw [exec_hashFinalizeXof_ok h ho]
  exact s.hashEnded_finishHash _ _

theorem exec_hash_ended (h : exec .hash s = .next t) (ho : t.errcode = .ok) :
    t.HashEnded (absorbPad s.params.padTerm (absorb { gimli := zeroGimli, pos := 0#5 }
      (s.readBytes (s.operand 0) (s.operand 1))) Config.domain) (s.operand 2) Config.digestSize := by
  rw [exec_hash_ok h ho]
  exact State.hashEnded_finishHash _ _ _

/-- HASH_INIT never fails and leaves the zero state at POS = 0 (R230). -/
theorem exec_hashInit_sponge (h : exec .hashInit s = .next t) : t.sponge = { gimli := zeroGimli, pos := 0#5 } := by
  rw [exec_hashInit_ran (firstError_noRegion rfl rfl rfl)] at h
  obtain rfl := Host.Outcome.next.inj h
  rfl

/-- What a HASH_UPDATE that answers OK leaves in S and POS (R231). -/
theorem exec_hashUpdate_sponge (h : exec .hashUpdate s = .next t) (ho : t.errcode = .ok) :
    t.sponge = absorb s.sponge (s.readBytes (s.operand 0) (s.operand 1)) := by
  rw [exec_hashUpdate_ok h ho]
  rfl

/-! ### Hashing in chunks -/

/-- After `n` steps that each absorb a piece, the whole string has been absorbed (R178). -/
theorem absorb_flatMap_range {d : Nat → Sponge} {piece : Nat → List Byte} {n : Nat}
    (h : ∀ k, k < n → d (k + 1) = absorb (d k) (piece k)) : d n = absorb (d 0) ((List.range n).flatMap piece) := by
  induction n with
  | zero => rfl
  | succ n ih =>
    rw [h n (Nat.lt_succ_self n), ih fun k hk => h k (Nat.lt_succ_of_lt hk), List.range_succ, List.flatMap_append,
      absorb_append, List.flatMap_singleton]

/-- Settles O38: the updates absorb the whole string, as the one-shot HASH does, and both end in the same way. -/
theorem chunkedHashEqualsOneShot : Obligations.ChunkedHashEqualsOneShot := by
  intro n s t s₀ s' t' r u hinit hupdate hg hp _ hfin hfinok hhash hhashok hparams hbytes
  have hstep : ∀ k, k < n → (t (k + 1)).sponge =
      absorb (t k).sponge ((s k).readBytes ((s k).operand 0) ((s k).operand 1)) := fun k hk => by
    obtain ⟨hgk, hpk, -, hk, hok⟩ := hupdate k hk
    rw [exec_hashUpdate_sponge hk hok, State.sponge_eq hgk hpk]
  have habsorbed : s'.sponge =
      absorb { gimli := zeroGimli, pos := 0#5 } (r.readBytes (r.operand 0) (r.operand 1)) := by
    rw [State.sponge_eq hg hp, absorb_flatMap_range (d := fun k => (t k).sponge) hstep, exec_hashInit_sponge hinit,
      hbytes]
  obtain ⟨hout', hsponge', hctx'⟩ := exec_hashFinalize_ended hfin hfinok
  obtain ⟨hout, hsponge, hctx⟩ := exec_hash_ended hhash hhashok
  rw [hparams, ← habsorbed] at hout hsponge
  have hend : u.sponge = t'.sponge := hsponge.trans hsponge'.symm
  exact ⟨hout.trans hout'.symm, congrArg Sponge.gimli hend, congrArg Sponge.pos hend, hctx.trans hctx'.symm⟩

/-! ### A shorter XOF and a longer one -/

/-- Settles O39: both commands squeeze from the same padded state, and a squeezed byte does not depend on how many
follow it. -/
theorem xofPrefix : Obligations.XofPrefix := by
  refine ⟨fun s t r u hs hsok hr hrok hg hp hparams hlen => ?_,
    fun s t r u hs hsok hlen hr hrok hg hp hparams => ?_⟩
  · rw [(exec_hashFinalizeXof_ended hr hrok).output, (exec_hashFinalizeXof_ended hs hsok).output,
      State.sponge_eq hg hp, hparams, squeeze_take hlen]
  · have hout := (exec_hashFinalizeXof_ended hs hsok).output
    rw [hlen] at hout
    rw [hout, ← State.sponge_eq hg hp, ← hparams]
    exact (exec_hashFinalize_ended hr hrok).output

/-! ### The CTX that each command leaves -/

/-- The CTX that a command leaves when it passes its checks, from the CTX it starts in (R35, R236). -/
def ctxAfter (i : Instr) (c : Ctx) : Ctx :=
  match i with
  | .stateStore => c
  | .hashInit | .hashUpdate => .hash
  | .hashFinalize | .hashFinalizeXof | .hash => .hashFinal
  | .permute | .stateZero | .stateLoad | .stateXorByte _ _ | .duplexAbsorb | .duplexAbsorbPad _ | .duplexSqueeze
  | .aeadEncrypt | .aeadDecrypt => .none

/-- A command that passes its checks is not out of sequence (R262, R266). -/
theorem ctx_eq_hash_of_firstError (h : firstError i s = none)
    (hi : i = .hashUpdate ∨ i = .hashFinalize ∨ i = .hashFinalizeXof) : s.ctx = .hash := by
  by_contra hc
  rw [firstError_of_ctx_ne_hash hi hc] at h
  cases h

theorem exec_ran_ctx (h : firstError i s = none) : ∃ t, exec i s = .next t ∧ t.ctx = ctxAfter i s.ctx := by
  cases i with
  | permute => exact ⟨_, exec_permute_ran h, rfl⟩
  | stateZero => exact ⟨_, exec_stateZero_ran h, rfl⟩
  | stateLoad => exact ⟨_, exec_stateLoad_ran h, rfl⟩
  | stateStore => exact ⟨_, exec_stateStore_ran h, by rw [State.complete_ctx, State.writeBytes_ctx, ctxAfter]⟩
  | stateXorByte idx v => exact ⟨_, exec_stateXorByte_ran h, rfl⟩
  | duplexAbsorb => exact ⟨_, exec_duplexAbsorb_ran h, rfl⟩
  | duplexAbsorbPad d => exact ⟨_, exec_duplexAbsorbPad_ran h, rfl⟩
  | duplexSqueeze => exact ⟨_, exec_duplexSqueeze_ran h, rfl⟩
  | aeadEncrypt => exact ⟨_, exec_aeadEncrypt_ran h, rfl⟩
  | aeadDecrypt =>
    refine ⟨_, exec_aeadDecrypt_ran h, ?_⟩
    split
    · rfl
    · rfl
  | hashInit => exact ⟨_, exec_hashInit_ran h, rfl⟩
  | hashUpdate =>
    refine ⟨_, exec_hashUpdate_ran h, ?_⟩
    rw [State.complete_ctx, State.absorbRegion_ctx]
    exact ctx_eq_hash_of_firstError h (.inl rfl)
  | hashFinalize => exact ⟨_, exec_hashFinalize_ran h, (State.hashEnded_finishHash _ _ _).ctx⟩
  | hashFinalizeXof => exact ⟨_, exec_hashFinalizeXof_ran h, (State.hashEnded_finishHash _ _ _).ctx⟩
  | hash => exact ⟨_, exec_hash_ran h, (State.hashEnded_finishHash _ _ _).ctx⟩

theorem exec_rejected_ctx {e : ErrCode} (he : firstError i s = some e) (h : exec i s = .next t) : t.ctx = s.ctx := by
  obtain rfl := Host.Outcome.next.inj ((exec_rejected he).symm.trans h)
  rw [State.complete_ctx]

/-- HASH_INIT is the only way into CTX = HASH; HASH_UPDATE stays there (R236). -/
theorem ctxAfter_eq_hash {c : Ctx} (h : ctxAfter i c = .hash) (hc : c ≠ .hash) : i = .hashInit ∨ i = .hashUpdate := by
  cases i with
  | stateStore => exact absurd h hc
  | hashInit => exact .inl rfl
  | hashUpdate => exact .inr rfl
  | _ => cases h

/-- Settles O40: a rejected command keeps CTX, and the others leave `ctxAfter`. -/
theorem ctxTransitions : Obligations.CtxTransitions := by
  intro i s t h
  have hran (he : firstError i s = none) : t.ctx = ctxAfter i s.ctx := by
    obtain ⟨v, hv, hctx⟩ := exec_ran_ctx he
    rwa [Host.Outcome.next.inj (h.symm.trans hv)]
  refine ⟨fun he => ?_, fun he => ?_, fun hi hc => ?_, fun ht hc => ?_⟩
  · obtain ⟨e, he⟩ := Option.ne_none_iff_exists'.1 he
    exact exec_rejected_ctx he h
  · rw [hran he]
    cases i <;> rfl
  · have he := firstError_of_ctx_ne_hash hi hc
    obtain rfl := Host.Outcome.next.inj ((exec_rejected he).symm.trans h)
    exact ⟨State.complete_errcode _ _, State.complete_ctx _ _⟩
  · cases he : firstError i s with
    | some e => exact absurd ((exec_rejected_ctx he h).symm.trans ht) hc
    | none =>
      obtain hi | hi := ctxAfter_eq_hash ((hran he).symm.trans ht) hc
      · exact hi
      · exact absurd (ctx_eq_hash_of_firstError he (.inl hi)) hc

end Sys2Proof.Machine
end

section
/-! PROOFS. The outcome of a command (60_exceptions.md R260-R270): the checks in their fixed order, the code each one
gives, the pairs of regions that overlap, and the three ways a command ends. -/

namespace Sys2Proof.Machine

variable {s t : State} {i : Instr}

/-! ### The checks in their order -/

/-- STATE_XOR_BYTE with an index from 48 on is the one operand that is bad (R265). -/
theorem operandBad_iff : operandBad i = true ↔ ∃ idx v, i = .stateXorByte idx v ∧ 48 ≤ idx.toNat := by
  cases i <;> simp [operandBad]

/-- RANGE comes after OPERAND and SEQUENCE (R262, R267). -/
theorem firstError_of_region_not_inRange (ho : operandBad i = false) (hs : sequenceBad i s.ctx = false)
    (hr : ∃ g ∈ regions i s, ¬InRange s g.addr g.len) : firstError i s = some .range := by
  obtain ⟨g, hg, hout⟩ := hr
  have hall : (regions i s).all (Region.inRange s.params.dmemSize) = false :=
    List.all_eq_false.2 ⟨g, hg, mt (Region.inRange_iff _ g).1 hout⟩
  simp [firstError, ho, hs, hall]

/-- OVERLAP is the last check: the other three pass and two regions are a forbidden pair (R262, R268). -/
theorem firstError_eq_overlap_iff : firstError i s = some .overlap ↔
    operandBad i = false ∧ sequenceBad i s.ctx = false ∧ (∀ g ∈ regions i s, InRange s g.addr g.len) ∧
      anyConflict (regions i s) = true := by
  have hrange : (regions i s).all (Region.inRange s.params.dmemSize) = true ↔
      ∀ g ∈ regions i s, InRange s g.addr g.len := by
    simp only [List.all_eq_true, Region.inRange_iff, InRange]
  rw [← hrange, firstError]
  split_ifs with ho hs hr hc
  · simp [ho]
  · simp [hs]
  · exact iff_of_false nofun fun ⟨_, _, hall, _⟩ => by simp [hall] at hr
  · exact iff_of_true rfl ⟨Bool.eq_false_of_not_eq_true ho, Bool.eq_false_of_not_eq_true hs, by simpa using hr, hc⟩
  · simp [hc]

theorem Access.writes_eq_false_iff {a : Access} : a.writes = false ↔ a = .r := by cases a <;> decide

/-- Two regions of the command are a forbidden pair, in the words of R268. -/
theorem anyConflict_iff {gs : List Region} : anyConflict gs = true ↔
    ¬gs.Pairwise fun g h => (g.access = .r ∧ h.access = .r) ∨ Apart g.addr g.len h.addr h.len := by
  simp only [← Bool.not_eq_false, anyConflict_eq_false_iff, Region.conflicts_eq_false_iff, Access.writes_eq_false_iff]

/-! ### What a command answers -/

/-- The first check that fails decides the code (R262, R263). -/
theorem exec_errcode_of_firstError {e : ErrCode} (h : exec i s = .next t) (he : firstError i s = some e) :
    t.errcode = e := by
  obtain rfl := Host.Outcome.next.inj ((exec_rejected he).symm.trans h)
  exact State.complete_errcode _ _

/-- A command that passes its checks answers OK, or AUTH_FAIL if it is AEAD_DECRYPT (R260, R269). -/
theorem exec_errcode_of_ran (h : exec i s = .next t) (he : firstError i s = none) :
    t.errcode = .ok ∨ (t.errcode = .authFail ∧ i = .aeadDecrypt) := by
  obtain ⟨body, hb, keeps⟩ := exec_spec i s
  obtain rfl := Host.Outcome.next.inj (hb.symm.trans h)
  rw [State.attempt_ran he, State.complete_errcode]
  exact keeps.outcome s

/-- A command answers OVERLAP exactly when that check is the first to fail (R262). -/
theorem exec_errcode_eq_overlap_iff (h : exec i s = .next t) :
    t.errcode = .overlap ↔ firstError i s = some .overlap := by
  refine ⟨fun ht => ?_, exec_errcode_of_firstError h⟩
  cases he : firstError i s with
  | some e => rw [← exec_errcode_of_firstError h he, ht]
  | none =>
    have hran := exec_errcode_of_ran h he
    simp [ht] at hran

/-- Every command, rejected or not, ends with BUSY = 0 and DONE = 1 (R270). -/
theorem exec_completes (h : exec i s = .next t) : t.latch = none ∧ t.done = true := by
  obtain ⟨body, hb, -⟩ := exec_spec i s
  obtain rfl := Host.Outcome.next.inj (hb.symm.trans h)
  obtain ⟨e, -, ha⟩ | ⟨-, ha⟩ := State.attempt_cases s i body
  · exact ha ▸ ⟨State.complete_latch _ _, State.complete_done _ _⟩
  · exact ha ▸ ⟨State.complete_latch _ _, State.complete_done _ _⟩

/-- After AUTH_FAIL the buffer holds zeros (R208, R269). -/
theorem exec_aeadDecrypt_zeroes (h : exec .aeadDecrypt s = .next t) (ha : t.errcode = .authFail)
    (he : firstError .aeadDecrypt s = none) :
    t.readBytes (s.operand 4) (s.operand 5) = List.replicate (s.operand 5) 0#8 := by
  obtain rfl := Host.Outcome.next.inj ((exec_aeadDecrypt_ran he).symm.trans h)
  split at ha
  · cases ha
  · next htag =>
    rw [if_neg htag, State.complete_scrub, State.readBytes, State.aeadDone_dmem, State.writeBytes_dmem,
      Memory.readBytes_writeBytes_length _ _ List.length_replicate]

/-- Settles O41: a failed check completes the command and no more; otherwise the body's outcome is OK, or AUTH_FAIL with
the buffer zeroed. -/
theorem everyCommandCompletes : Obligations.EveryCommandCompletes := by
  intro i s
  obtain ⟨body, hb, -⟩ := exec_spec i s
  obtain ⟨hlatch, hdone⟩ := exec_completes hb
  refine ⟨_, hb, State.busy_eq_false_of_latch hlatch, hdone, ?_⟩
  cases he : firstError i s with
  | some e =>
    refine .inr (.inl ?_)
    rw [State.attempt_rejected he, State.complete_errcode]
    exact ⟨rfl, by simpa using firstError_code he⟩
  | none =>
    obtain ho | ⟨ha, rfl⟩ := exec_errcode_of_ran hb he
    · exact .inl ho
    · exact .inr (.inr ⟨ha, rfl, exec_aeadDecrypt_zeroes hb ha he⟩)

/-- Settles O43: each condition is the check of the model in the words of the spec, and the first that holds gives its
code. -/
theorem checksRunInOrder : Obligations.ChecksRunInOrder := by
  intro i s t operandFails sequenceFails rangeFails overlapFails hop hseq hrange hoverlap h
  rw [← operandBad_iff] at hop
  rw [← sequenceBad_iff] at hseq
  rw [← anyConflict_iff] at hoverlap
  have hpass : ¬rangeFails ↔ ∀ g ∈ regions i s, InRange s g.addr g.len := by
    rw [hrange]
    push Not
    rfl
  simp only [hpass, hop, hseq, hoverlap, Bool.not_eq_true]
  refine ⟨fun ho => ?_, fun ho hs => ?_, fun ho hs hr => ?_, fun ho hs hr hc => ?_, fun ho hs hr hc => ?_⟩
  · exact exec_errcode_of_firstError h (firstError_of_operandBad ho)
  · exact exec_errcode_of_firstError h (firstError_of_sequenceBad ho hs)
  · exact exec_errcode_of_firstError h (firstError_of_region_not_inRange ho hs (hrange.1 hr))
  · exact exec_errcode_of_firstError h (firstError_eq_overlap_iff.2 ⟨ho, hs, hr, hc⟩)
  · exact exec_errcode_of_ran h ((firstError_eq_none_iff i s).2
      ⟨ho, hs, fun g hg => (Region.inRange_iff _ g).2 (hr g hg), hc⟩)

/-! ### The pairs of regions that raise OVERLAP -/

/-- When the other checks pass, OVERLAP is the only code left (R262). -/
theorem exec_errcode_eq_overlap_iff_of_inRange (h : exec i s = .next t) (ho : operandBad i = false)
    (hs : sequenceBad i s.ctx = false) (hr : ∀ g ∈ regions i s, g.inRange s.params.dmemSize = true) :
    t.errcode = .overlap ↔ firstError i s ≠ none := by
  rw [exec_errcode_eq_overlap_iff h, firstError_eq_overlap_iff, ne_eq, firstError_eq_none_iff]
  have hr' : ∀ g ∈ regions i s, InRange s g.addr g.len := fun g hg => (Region.inRange_iff _ g).1 (hr g hg)
  rw [and_iff_right ho, and_iff_right hs, and_iff_right hr', and_iff_right ho, and_iff_right hs, and_iff_right hr,
    Bool.not_eq_false]

/-- AEAD_DECRYPT passes its checks exactly with its regions in range and the buffer apart from the other four (R262,
R268). -/
theorem firstError_aeadDecrypt_eq_none_iff :
    firstError .aeadDecrypt s = none ↔ AeadInRange s ∧ AeadBufferApart s := by
  refine ⟨fun h => ?_, fun ⟨hin, hbuf⟩ => firstError_aeadDecrypt_of_apart hin hbuf⟩
  rw [firstError_eq_none_iff, regions_aead_inRange_iff (.inr rfl), anyConflict_eq_false_iff] at h
  simp only [regions, List.pairwise_cons, List.forall_mem_cons, Region.conflicts_eq_false_iff, Access.writes,
    Bool.true_eq_false, false_and, and_false, false_or] at h
  obtain ⟨-, -, hin, ⟨-, -, bkey, -⟩, ⟨-, bnonce, -⟩, ⟨baad, -⟩, ⟨btag, -⟩, -⟩ := h
  exact ⟨hin, ⟨bkey.symm, bnonce.symm, baad.symm⟩, btag⟩

/-- Only the two AEAD commands and HASH have two regions, so only they can overlap (R93, R268). -/
theorem anyConflict_regions (henc : i ≠ .aeadEncrypt) (hdec : i ≠ .aeadDecrypt) (hhash : i ≠ .hash) :
    anyConflict (regions i s) = false := by
  cases i with
  | aeadEncrypt => exact absurd rfl henc
  | aeadDecrypt => exact absurd rfl hdec
  | hash => exact absurd rfl hhash
  | _ => rfl

/-- Settles O44: with every region in range, OVERLAP is the answer exactly when the regions are not apart as the passed
checks of the command ask. -/
theorem overlapPairs : Obligations.OverlapPairs := by
  refine ⟨fun s t h hkey hnonce haad hbuf htag => ?_, fun s t h hkey hnonce haad hbuf htag => ?_,
    fun s t h hin hout => ?_, fun i s t henc hdec hhash h => ?_⟩
  · have hin : AeadInRange s := ⟨hkey, hnonce, haad, hbuf, htag⟩
    rw [exec_errcode_eq_overlap_iff_of_inRange h rfl rfl ((regions_aead_inRange_iff (.inl rfl)).2 hin), ne_eq,
      firstError_aeadEncrypt_eq_none_iff]
    exact not_congr
      ⟨fun ⟨_, ⟨⟨bkey, bnonce, baad⟩, btag⟩, ⟨tkey, tnonce, taad⟩⟩ => ⟨bkey, bnonce, baad, btag, tkey, tnonce, taad⟩,
        fun ⟨bkey, bnonce, baad, btag, tkey, tnonce, taad⟩ =>
          ⟨hin, ⟨⟨bkey, bnonce, baad⟩, btag⟩, ⟨tkey, tnonce, taad⟩⟩⟩
  · have hin : AeadInRange s := ⟨hkey, hnonce, haad, hbuf, htag⟩
    rw [exec_errcode_eq_overlap_iff_of_inRange h rfl rfl ((regions_aead_inRange_iff (.inr rfl)).2 hin), ne_eq,
      firstError_aeadDecrypt_eq_none_iff]
    exact not_congr ⟨fun ⟨_, ⟨bkey, bnonce, baad⟩, btag⟩ => ⟨bkey, bnonce, baad, btag⟩,
      fun ⟨bkey, bnonce, baad, btag⟩ => ⟨hin, ⟨bkey, bnonce, baad⟩, btag⟩⟩
  · rw [exec_errcode_eq_overlap_iff h, firstError_hash, if_pos ⟨hin, inRange_digestSize_iff.1 hout⟩]
    by_cases ha : Apart (s.operand 0) (s.operand 1) (s.operand 2) 32
    · rw [if_pos ha]
      exact iff_of_false nofun (not_not_intro ha)
    · rw [if_neg ha]
      exact iff_of_true rfl ha
  · intro ht
    obtain ⟨-, -, -, hc⟩ := firstError_eq_overlap_iff.1 ((exec_errcode_eq_overlap_iff h).1 ht)
    rw [anyConflict_regions henc hdec hhash] at hc
    cases hc

/-! ### A rejection -/

/-- Using up a turn changes nothing that a command reads (log 2). -/
theorem sameToCommands_takeTurn (s : State) : SameToCommands s s.takeTurn :=
  ⟨s.takeTurn_params, s.takeTurn_gimli, s.takeTurn_pos, s.takeTurn_ctx, s.takeTurn_dmem,
    fun _ => by simp only [State.operand, State.takeTurn_latch, State.takeTurn_a]⟩

/-- Settles O42: an illegal word and a failed check both end in a completion, which keeps CMD. -/
theorem rejectionOnlyCompletes : Obligations.RejectionOnlyCompletes := by
  intro s l hl hcmd hm
  have hword (e : ErrCode) : (s.takeTurn.complete e).readReg .cmd = l.word := by
    rw [State.readReg, State.complete_cmd, State.takeTurn_cmd, hcmd l hl]
  refine ⟨fun ⟨e, he⟩ => ⟨_, step_of_illegal hl hm he, rfl, hword _⟩, fun i e hi he => ?_⟩
  refine ⟨by simpa using firstError_code he, s.takeTurn.complete e, ?_, rfl, hword e⟩
  rw [(stepRunsTheLatchedCommand s l i hl hi hm).1]
  exact exec_rejected (((sameToCommands_takeTurn s).firstError_eq i).trans he)

end Sys2Proof.Machine
end

section
/-! PROOFS. What a step keeps and what ends a run (60_exceptions.md R260, R280; 20_memory.md R63, R64, R67;
70_reset_and_hazards.md R305). -/

namespace Sys2Proof.Machine

variable {s t : State} {op : HostOp} {r : Refusal}

/-! ### What a host operation that goes on has done -/

/-- A host operation that goes on is a register write, a reset, a DMEM write, or one that changes the host's side only:
a read, or a POLL (R98, R314). -/
theorem hostOp_cases (h : hostOp op s = .next t) :
    (∃ off v, op = .regWrite off 32 v ∧ off % 4 = 0 ∧ off < 0x40 ∧ t = s.writeReg (regAt off) v) ∨
    (op = .assertReset ∧ t = s.assertReset) ∨
    (∃ addr bs, t = s.writeBytes addr bs) ∨
    (∃ r p, t = { s.reply r with program := p }) := by
  cases op with
  | regWrite off width v =>
    obtain ⟨ha, ht⟩ := hostOp_regWrite_iff.1 h
    obtain ⟨rfl, hoff⟩ := accessRefused_eq_none_iff.1 ha
    exact .inl ⟨off, v, rfl, hoff.1, hoff.2, ht⟩
  | regRead off width => exact .inr (.inr (.inr ⟨_, _, (hostOp_regRead_iff.1 h).2⟩))
  | memWrite addr bs => exact .inr (.inr (.inl ⟨addr, bs, (hostOp_memWrite_iff.1 h).2⟩))
  | memRead addr len => exact .inr (.inr (.inr ⟨_, _, (hostOp_memRead_iff.1 h).2⟩))
  | poll =>
    refine .inr (.inr (.inr ?_))
    cases hb : s.busy with
    | true => exact ⟨_, _, (Host.Outcome.next.inj ((hostOp_poll_of_busy hb).symm.trans h)).symm⟩
    | false => exact ⟨_, _, (Host.Outcome.next.inj ((hostOp_poll_of_idle hb).symm.trans h)).symm⟩
  | assertReset => exact .inr (.inl ⟨rfl, hostOp_assertReset_iff.1 h⟩)
  | secondHost => cases h

/-! ### The parameters -/

theorem State.writeCmd_params (s : State) (v : Word) : (s.writeCmd v).params = s.params := by
  cases hb : s.busy with
  | true => rw [State.writeCmd_of_busy hb]
  | false => rw [State.writeCmd_of_idle hb, State.accept_params]

theorem State.writeReg_params (s : State) (r : RegName) (v : Word) : (s.writeReg r v).params = s.params := by
  cases r with
  | cmd => exact s.writeCmd_params v
  | status => exact s.clearStatus_params v
  | ctrl => exact s.setCtrl_params v
  | reserved => rfl
  | operand i => exact s.writeOperand_params i v

theorem State.foldl_drawByte_params (s : State) (as : List Nat) : (as.foldl State.drawByte s).params = s.params := by
  induction as generalizing s with
  | nil => rfl
  | cons a as ih => rw [List.foldl_cons, ih, State.drawByte_params]

theorem State.assertReset_params (s : State) : s.assertReset.params = s.params := by
  rw [State.assertReset, State.clearRegisters_params, State.foldl_drawByte_params]

theorem hostOp_params (h : hostOp op s = .next t) : t.params = s.params := by
  obtain ⟨off, v, -, -, -, rfl⟩ | ⟨-, rfl⟩ | ⟨addr, bs, rfl⟩ | ⟨r, p, rfl⟩ := hostOp_cases h
  · exact s.writeReg_params _ v
  · exact s.assertReset_params
  · exact s.writeBytes_params addr bs
  · exact s.reply_params r

theorem exec_params {i : Instr} (h : exec i s = .next t) : t.params = s.params := by
  obtain ⟨-, -, -, -, hp, -⟩ := commandsKeepOtherRegisters i s t h
  exact hp

/-- No step writes the parameters (R6, R7). -/
theorem step_params (h : step s = .next t) : t.params = s.params := by
  obtain ⟨-, rfl⟩ | ⟨-, op, rest, -, hop⟩ | ⟨-, i, -, hi⟩ | ⟨-, -, rfl⟩ := step_cases h
  · rfl
  · exact (hostOp_params hop).trans s.takeTurn_params
  · exact (exec_params hi).trans s.takeTurn_params
  · exact (State.complete_params _ _).trans s.takeTurn_params

/-! ### Refusals -/

/-- The engine's step and the idle step go on (R260, R282). -/
theorem step_of_mover_ne_host (h : s.mover ≠ .host) : ∃ t, step s = .next t := by
  cases hm : s.mover with
  | host => exact absurd hm h
  | nobody => exact ⟨s, step_of_nobody hm⟩
  | engine =>
    cases hf : s.takeTurn.fetched with
    | some i =>
      obtain ⟨body, hb, -⟩ := exec_spec i s.takeTurn
      exact ⟨_, (step_of_engine hm hf).trans hb⟩
    | none => exact ⟨s.takeTurn.rejectIllegal, by simp only [step, hm, hf]⟩

/-- A run ends only at the host's next operation (R260). -/
theorem step_refused (h : step s = .refused r) : ∃ op rest, s.program = op :: rest ∧ s.mover = .host ∧
    hostOp op { s.takeTurn with program := rest } = .refused r := by
  have hm : s.mover = .host := by
    by_contra hm
    obtain ⟨t, ht⟩ := step_of_mover_ne_host hm
    cases ht.symm.trans h
  obtain ⟨op, rest, hp⟩ := List.exists_cons_of_ne_nil (State.program_ne_nil_of_mover hm)
  exact ⟨op, rest, hp, hm, (step_of_host hm hp).symm.trans h⟩

/-- A refused DMEM access comes while BUSY = 1 or leaves DMEM (R67, R305). -/
theorem busy_or_not_inRange_of_dmemRefused {addr len : Nat} (h : dmemRefused s addr len = some r) :
    s.busy = true ∨ ¬InRange s addr len := by
  have hne : ¬(s.busy = false ∧ InRange s addr len) := fun hd => by
    rw [dmemRefused_eq_none_iff.2 hd] at h
    cases h
  rwa [not_and_or, Bool.not_eq_false] at hne

/-- The host accesses that the spec puts outside the interface: a register access of a wrong width, alignment or offset
(R63, R64), a DMEM access while BUSY = 1 or outside DMEM (R67, R305), and a second host (R280). -/
def OutsideInterface (s : State) (op : HostOp) : Prop :=
  (∃ off width v, (op = .regWrite off width v ∨ op = .regRead off width) ∧
    (width ≠ 32 ∨ off % 4 ≠ 0 ∨ 0x40 ≤ off)) ∨
  (∃ addr len bs, (op = .memRead addr len ∨ (op = .memWrite addr bs ∧ bs.length = len)) ∧
    (s.busy = true ∨ ¬InRange s addr len)) ∨
  op = .secondHost

theorem outsideInterface_of_hostOp_refused (h : hostOp op s = .refused r) : OutsideInterface s op := by
  cases op with
  | regWrite off width v =>
    exact .inl ⟨off, width, v, .inl rfl, exists_accessRefused_iff.1 ⟨r, hostOp_regWrite_refused_iff.1 h⟩⟩
  | regRead off width =>
    exact .inl ⟨off, width, 0, .inr rfl, exists_accessRefused_iff.1 ⟨r, hostOp_regRead_refused_iff.1 h⟩⟩
  | memWrite addr bs =>
    exact .inr (.inl ⟨addr, bs.length, bs, .inr ⟨rfl, rfl⟩,
      busy_or_not_inRange_of_dmemRefused (hostOp_memWrite_refused_iff.1 h)⟩)
  | memRead addr len =>
    exact .inr (.inl ⟨addr, len, [], .inl rfl, busy_or_not_inRange_of_dmemRefused (hostOp_memRead_refused_iff.1 h)⟩)
  | poll =>
    cases hb : s.busy with
    | true => cases (hostOp_poll_of_busy hb).symm.trans h
    | false => cases (hostOp_poll_of_idle hb).symm.trans h
  | assertReset => cases h
  | secondHost => exact .inr (.inr rfl)

/-- The host's step begins in a state with the same latch and DMEM size, so the access is outside the interface there as
well (log 1, log 2). -/
theorem OutsideInterface.of_takeTurn {p : List HostOp}
    (h : OutsideInterface { s.takeTurn with program := p } op) : OutsideInterface s op := by
  simpa only [OutsideInterface, State.busy, InRange, State.takeTurn_latch, State.takeTurn_params] using h

/-- Settles O59: an agent other than the host always goes on, and a host operation is refused only outside the
interface. -/
theorem onlyHostAccessesStopARun : Obligations.OnlyHostAccessesStopARun := by
  refine ⟨fun s t => step_params, fun s => step_of_mover_ne_host, fun s r h => ?_, fun _ => rfl⟩
  obtain ⟨op, rest, hp, hm, hop⟩ := step_refused h
  exact ⟨op, rest, hp, hm, (outsideInterface_of_hostOp_refused hop).of_takeTurn⟩

end Sys2Proof.Machine
end

section
/-! PROOFS. The CMD and STATUS writes and the interrupt line (60_exceptions.md R271-R274). -/

namespace Sys2Proof.Machine

variable {s t : State} {op : HostOp}

/-! ### CMD and STATUS -/

/-- A CMD write is refused in no state (R271, R272). -/
theorem hostOp_writeCmd (s : State) (v : Word) : hostOp (.regWrite 0x00 32 v) s = .next (s.writeCmd v) :=
  hostOp_regWrite (by decide) v

/-- A STATUS write is refused in no state (R273). -/
theorem hostOp_writeStatus (s : State) (v : Word) : hostOp (.regWrite 0x04 32 v) s = .next (s.clearStatus v) :=
  hostOp_regWrite (by decide) v

/-- Settles O48: BUSY decides whether a CMD write is accepted or discarded; a CMD read is a reply. -/
theorem cmdWriteIdleAndBusy : Obligations.CmdWriteIdleAndBusy := by
  refine ⟨fun s v hb => ?_, fun s v hb => ?_, fun s => hostOp_regRead (by decide)⟩
  · refine ⟨s.accept v, ?_, rfl, rfl, fun i => State.operand_of_latch (s.accept_latch v) i⟩
    rw [hostOp_writeCmd, State.writeCmd_of_idle hb]
  · rw [hostOp_writeCmd, State.writeCmd_of_busy hb]

/-- Writing a 1 clears the bit, and writing a 0 leaves it (R273). -/
theorem and_not_eq_ite (b c : Bool) : (b && !c) = if c then false else b := by cases c <;> simp

/-- Settles O49: DONE and OVR each take their own bit of the word written. -/
theorem statusWriteClears : Obligations.StatusWriteClears := by
  intro s v
  rw [hostOp_writeStatus, State.clearStatus, and_not_eq_ite, and_not_eq_ite]

/-! ### The interrupt line -/

theorem State.irq_iff : s.irq = true ↔ s.ie = true ∧ s.done = true := by rw [State.irq, Bool.and_eq_true]

/-- irq is a function of IE and DONE alone (R274). -/
theorem State.irq_congr (hie : t.ie = s.ie) (hdone : t.done = s.done) : t.irq = s.irq := by
  rw [State.irq, State.irq, hie, hdone]

theorem State.irq_complete (s : State) (e : ErrCode) : (s.complete e).irq = s.ie := by
  rw [State.irq, State.complete_ie, State.complete_done, Bool.and_true]

/-- A completion leaves irq at IE (R270, R274). -/
theorem exec_irq {i : Instr} (h : exec i s = .next t) : t.irq = s.ie := by
  obtain ⟨-, -, -, hie, -⟩ := commandsKeepOtherRegisters i s t h
  rw [State.irq, hie, (exec_completes h).2, Bool.and_true]

theorem State.irq_accept (s : State) (v : Word) : (s.accept v).irq = false := by
  rw [State.irq, State.accept_done, Bool.and_false]

/-- A STATUS write with bit 1 lowers irq (R273, R274). -/
theorem State.irq_clearStatus_of_bit {v : Word} (h : v.getLsbD 1 = true) : (s.clearStatus v).irq = false := by
  rw [State.irq, State.clearStatus_done, h, Bool.not_true, Bool.and_false, Bool.and_false]

theorem State.irq_assertReset (s : State) : s.assertReset.irq = false := rfl

/-! ### The host operations that move the interrupt line -/

/-- The host operations that lower irq: a CMD write while idle, a STATUS write with bit 1, a CTRL write without bit 0,
and a reset (R271, R273, R274, R300). -/
def LowersIrq (s : State) (op : HostOp) : Prop :=
  op = .assertReset ∨ ∃ off v, op = .regWrite off 32 v ∧
    ((off = 0x00 ∧ s.busy = false) ∨ (off = 0x04 ∧ v.getLsbD 1 = true) ∨ (off = 0x08 ∧ v.getLsbD 0 = false))

/-- A register write at offset `off` leaves irq as it was, lowers it, or, by setting IE, leaves it at DONE (R274). -/
theorem writeReg_irq_cases (s : State) (off : Nat) (v : Word) :
    (s.writeReg (regAt off) v).irq = s.irq ∨
    ((s.writeReg (regAt off) v).irq = false ∧ LowersIrq s (.regWrite off 32 v)) ∨
    ((s.writeReg (regAt off) v).irq = s.done ∧ off = 0x08 ∧ v.getLsbD 0 = true) := by
  unfold regAt
  split_ifs with hcmd hstatus hctrl
  · cases hb : s.busy with
    | true =>
      refine .inl ?_
      rw [State.writeReg, State.writeCmd_of_busy hb]
      rfl
    | false =>
      refine .inr (.inl ⟨?_, .inr ⟨off, v, rfl, .inl ⟨hcmd, hb⟩⟩⟩)
      rw [State.writeReg, State.writeCmd_of_idle hb, State.irq_accept]
  · cases hv : v.getLsbD 1 with
    | true => exact .inr (.inl ⟨State.irq_clearStatus_of_bit hv, .inr ⟨off, v, rfl, .inr (.inl ⟨hstatus, hv⟩)⟩⟩)
    | false => exact .inl (State.irq_congr rfl (by rw [State.writeReg, State.clearStatus_done, hv]; simp))
  · cases hv : v.getLsbD 0 with
    | true =>
      refine .inr (.inr ⟨?_, hctrl, rfl⟩)
      rw [State.irq, State.writeReg, State.setCtrl_ie, State.setCtrl_done, hv, Bool.true_and]
    | false =>
      refine .inr (.inl ⟨?_, .inr ⟨off, v, rfl, .inr (.inr ⟨hctrl, hv⟩)⟩⟩)
      rw [State.irq, State.writeReg, State.setCtrl_ie, hv, Bool.false_and]
  · exact .inl rfl
  · exact .inl rfl

/-- A host operation leaves irq as it was, lowers it, or, by setting IE, leaves it at DONE (R274). -/
theorem hostOp_irq_cases (h : hostOp op s = .next t) :
    t.irq = s.irq ∨ (t.irq = false ∧ LowersIrq s op) ∨
      (t.irq = s.done ∧ ∃ v, op = .regWrite 0x08 32 v ∧ v.getLsbD 0 = true) := by
  obtain ⟨off, v, rfl, -, -, rfl⟩ | ⟨rfl, rfl⟩ | ⟨addr, bs, rfl⟩ | ⟨r, p, rfl⟩ := hostOp_cases h
  · obtain hsame | hlow | ⟨hset, rfl, hv⟩ := writeReg_irq_cases s off v
    · exact .inl hsame
    · exact .inr (.inl hlow)
    · exact .inr (.inr ⟨hset, v, rfl, hv⟩)
  · exact .inr (.inl ⟨s.irq_assertReset, .inl rfl⟩)
  · exact .inl (State.irq_congr (s.writeBytes_ie addr bs) (s.writeBytes_done addr bs))
  · exact .inl (State.irq_congr (s.reply_ie r) (s.reply_done r))

/-! ### The steps that move the interrupt line -/

/-- A step leaves irq as it was, or is the engine's and leaves it at IE, or is a host operation that lowers it or, by
setting IE, leaves it at DONE (R274). -/
theorem step_irq_cases (h : step s = .next t) :
    t.irq = s.irq ∨ (s.mover = .engine ∧ t.irq = s.ie) ∨
    (s.mover = .host ∧ ∃ op rest, s.program = op :: rest ∧
      ((t.irq = false ∧ LowersIrq s op) ∨ (t.irq = s.done ∧ ∃ v, op = .regWrite 0x08 32 v ∧ v.getLsbD 0 = true))) := by
  obtain ⟨-, rfl⟩ | ⟨hm, op, rest, hp, hop⟩ | ⟨hm, i, -, hi⟩ | ⟨hm, -, rfl⟩ := step_cases h
  · exact .inl rfl
  · have hcases := hostOp_irq_cases hop
    simp only [LowersIrq, State.irq, State.busy, State.takeTurn_latch, State.takeTurn_ie,
      State.takeTurn_done] at hcases
    obtain hsame | hmoved := hcases
    · exact .inl hsame
    · exact .inr (.inr ⟨hm, op, rest, hp, hmoved⟩)
  · exact .inr (.inl ⟨hm, (exec_irq hi).trans s.takeTurn_ie⟩)
  · exact .inr (.inl ⟨hm, (State.irq_complete _ _).trans s.takeTurn_ie⟩)

/-- Settles O54: with irq = 1 both IE and DONE are 1, so only a lowering host operation ends it; with irq = 0 only the
engine's completion or the setting of IE begins it. -/
theorem interruptFollowsDone : Obligations.InterruptFollowsDone := by
  refine ⟨fun s => State.irq_iff, fun i s t => exec_irq, fun s t v hb h => ?_, fun s t v hv h => ?_,
    fun s t h hs ht => ?_, fun s t h hs ht => ?_⟩
  · rw [hostOp_writeCmd, State.writeCmd_of_idle hb] at h
    exact Host.Outcome.next.inj h ▸ s.irq_accept v
  · rw [hostOp_writeStatus] at h
    exact Host.Outcome.next.inj h ▸ State.irq_clearStatus_of_bit hv
  · obtain ⟨hie, hdone⟩ := State.irq_iff.1 hs
    obtain hsame | ⟨-, hset⟩ | ⟨hm, op, rest, hp, ⟨-, hlow⟩ | ⟨hset, -⟩⟩ := step_irq_cases h
    · simp [hsame, hs] at ht
    · simp [hset, hie] at ht
    · exact ⟨op, rest, hp, hm, hlow⟩
    · simp [hset, hdone] at ht
  · obtain hsame | ⟨hm, -⟩ | ⟨hm, op, rest, hp, ⟨hfalse, -⟩ | ⟨-, v, rfl, hv⟩⟩ := step_irq_cases h
    · simp [hsame, hs] at ht
    · exact .inl hm
    · simp [hfalse] at ht
    · exact .inr ⟨v, rest, hp, hm, hv⟩

end Sys2Proof.Machine
end

section
/-! PROOFS. Reset (70_reset_and_hazards.md R300, R301, R302): the registers it clears, the addresses it draws for, and
what DMEM holds after the draws. -/

namespace Sys2Proof.Machine

variable {s : State}

/-! ### The draws -/

/-- The draws of an aborted command change DMEM and the count of draws, and nothing else (R301). -/
theorem State.foldl_drawByte_eq (s : State) (as : List Nat) : as.foldl State.drawByte s =
    { s with dmem := (as.foldl State.drawByte s).dmem, draws := (as.foldl State.drawByte s).draws } := by
  induction as generalizing s with
  | nil => rfl
  | cons a as ih => exact ih (s.drawByte a)

theorem State.foldl_drawByte_draws (s : State) (as : List Nat) :
    (as.foldl State.drawByte s).draws = s.draws + as.length := by
  induction as generalizing s with
  | nil => rfl
  | cons a as ih =>
    rw [List.foldl_cons, ih, State.drawByte_draws, List.length_cons]
    omega

/-- A byte that no draw goes to reads as before (R301). -/
theorem State.read_foldl_drawByte_of_notMem {as : List Nat} {a : Nat} (h : a ∉ as) :
    Memory.read (as.foldl State.drawByte s).dmem a = Memory.read s.dmem a := by
  induction as generalizing s with
  | nil => rfl
  | cons b as ih =>
    obtain ⟨hne, has⟩ := List.ne_and_not_mem_of_not_mem_cons h
    rw [List.foldl_cons, ih has, State.drawByte_dmem, Memory.read_write_ne _ _ hne]

/-- A byte that draws go to holds one of them: the last that went to it (R301). -/
theorem State.read_foldl_drawByte_of_mem {as : List Nat} {a : Nat} (h : a ∈ as) :
    ∃ n, s.draws ≤ n ∧ n < (as.foldl State.drawByte s).draws ∧
      Memory.read (as.foldl State.drawByte s).dmem a = Config.abortByte n := by
  induction as generalizing s with
  | nil => cases h
  | cons b as ih =>
    by_cases hlater : a ∈ as
    · obtain ⟨n, hlo, hhi, hread⟩ := ih (s := s.drawByte b) hlater
      rw [State.drawByte_draws] at hlo
      exact ⟨n, by omega, hhi, hread⟩
    · obtain rfl := (List.mem_cons.1 h).resolve_right hlater
      refine ⟨s.draws, le_rfl, ?_, ?_⟩
      · rw [State.foldl_drawByte_draws, List.length_cons]
        omega
      · rw [List.foldl_cons, State.read_foldl_drawByte_of_notMem hlater, State.drawByte_dmem,
          Memory.read_write_same]

/-! ### The addresses -/

theorem Access.writes_iff {x : Access} : x.writes = true ↔ x ≠ .r := by cases x <;> decide

/-- A command that passes its checks would write the addresses inside the regions it writes (R68, R93, R263). -/
theorem mem_writtenAddresses_iff {i : Instr} {a : Nat} : a ∈ writtenAddresses i s ↔
    firstError i s = none ∧ ∃ g ∈ regions i s, g.access ≠ .r ∧ Inside a g.addr g.len := by
  have hinside (g : Region) : (∃ k < g.len, g.addr + k = a) ↔ Inside a g.addr g.len :=
    ⟨fun ⟨k, hk, ha⟩ => by omega, fun ha => ⟨a - g.addr, by omega, by omega⟩⟩
  cases he : firstError i s with
  | some e => simp [writtenAddresses, he]
  | none =>
    simp only [writtenAddresses, he, List.mem_flatMap, List.mem_filter, List.mem_map, List.mem_range, hinside,
      Access.writes_iff, and_assoc, true_and]

/-- A command that a check would reject writes nothing (R263; log 9). -/
theorem writtenAddresses_of_firstError_ne_none {i : Instr} (h : firstError i s ≠ none) : writtenAddresses i s = [] :=
  List.eq_nil_iff_forall_not_mem.2 fun _ ha => h (mem_writtenAddresses_iff.1 ha).1

theorem State.abortedAddresses_of_idle (h : s.busy = false) : s.abortedAddresses = [] := by
  rw [State.busy, Option.isSome_eq_false_iff, Option.isNone_iff_eq_none] at h
  simp only [State.abortedAddresses, h]

theorem State.abortedAddresses_of_decode {l : Latch} {i : Instr} (hl : s.latch = some l) (hi : decode l.word = .ok i) :
    s.abortedAddresses = writtenAddresses i s := by
  simp only [State.abortedAddresses, hl, hi]

theorem State.abortedAddresses_of_decode_error {l : Latch} {e : DecodeError} (hl : s.latch = some l)
    (he : decode l.word = .error e) : s.abortedAddresses = [] := by
  simp only [State.abortedAddresses, hl, he]

/-! ### Reset -/

theorem State.assertReset_dmem (s : State) :
    s.assertReset.dmem = (s.abortedAddresses.foldl State.drawByte s).dmem := State.clearRegisters_dmem _

theorem State.assertReset_draws (s : State) :
    s.assertReset.draws = (s.abortedAddresses.foldl State.drawByte s).draws := State.clearRegisters_draws _

/-- A reset gives every register its reset value, and of the rest it changes DMEM and the count of draws alone (R300;
log 16). -/
theorem State.assertReset_eq (s : State) : s.assertReset =
    { s.clearRegisters with dmem := s.assertReset.dmem, draws := s.assertReset.draws } :=
  congrArg State.clearRegisters (s.foldl_drawByte_eq s.abortedAddresses)

/-- With no address to draw for, a reset leaves DMEM and the count of draws as they are (R300; log 20). -/
theorem State.assertReset_of_abortedAddresses_nil (h : s.abortedAddresses = []) :
    s.assertReset.dmem = s.dmem ∧ s.assertReset.draws = s.draws := by
  rw [State.assertReset_dmem, State.assertReset_draws, h, List.foldl_nil]
  exact ⟨rfl, rfl⟩

/-- STATUS reads 0 once the registers are cleared (R38, R300). -/
theorem statusWord_clearRegisters (s : State) : statusWord s.clearRegisters = 0x00000000#32 := by
  simp [statusWord, State.busy, Ctx.code, ErrCode.code]

/-- CTRL reads 0 once the registers are cleared (R45, R300). -/
theorem ctrlWord_clearRegisters (s : State) : ctrlWord s.clearRegisters = 0x00000000#32 := by simp [ctrlWord]

/-- At power-up the registers already hold their reset values (R300). -/
theorem State.clearRegisters_reset : State.reset.clearRegisters = State.reset := rfl

/-- Settles O56: the draws go to the addresses of the command's written regions, in order, and a command that would be
rejected has none. -/
theorem resetAbortsTheCommand : Obligations.ResetAbortsTheCommand := by
  intro s l hl
  refine ⟨s.assertReset, hostOp_assertReset_iff.2 rfl, s.assertReset_eq, fun ⟨e, he⟩ => ?_, fun i hi => ?_⟩
  · exact State.assertReset_of_abortedAddresses_nil (State.abortedAddresses_of_decode_error hl he)
  · have haddr := State.abortedAddresses_of_decode hl hi
    refine ⟨fun a ha => ?_, fun hok g hg hw a ha => ?_, fun hbad => ?_⟩
    · rw [State.assertReset_dmem, haddr]
      refine State.read_foldl_drawByte_of_notMem fun hmem => ?_
      obtain ⟨-, g, hg, hw, hin⟩ := mem_writtenAddresses_iff.1 hmem
      exact (ha g hg).elim hw (· hin)
    · rw [State.assertReset_dmem, State.assertReset_draws, haddr]
      exact State.read_foldl_drawByte_of_mem (mem_writtenAddresses_iff.2 ⟨hok, g, hg, hw, ha⟩)
    · exact State.assertReset_of_abortedAddresses_nil (haddr.trans (writtenAddresses_of_firstError_ne_none hbad))

/-- Settles O55: a reset is the clearing of the registers, with no draw while idle, and power-up is a state already
cleared. -/
theorem resetValues : Obligations.ResetValues := by
  refine ⟨fun s => ?_, rfl, rfl, rfl, rfl, rfl, rfl, ?_, ?_, rfl, rfl⟩
  · exact ⟨s.assertReset, hostOp_assertReset_iff.2 rfl, s.assertReset_eq, statusWord_clearRegisters _,
      ctrlWord_clearRegisters _, s.irq_assertReset,
      fun hb => State.assertReset_of_abortedAddresses_nil (State.abortedAddresses_of_idle hb)⟩
  · rw [← State.clearRegisters_reset, statusWord_clearRegisters]
  · rw [← State.clearRegisters_reset, ctrlWord_clearRegisters]

/-- Settles O58: POS is 0, nothing is recorded in DMEM, and no command is in flight. -/
theorem resetMeetsInvariant : Obligations.ResetMeetsInvariant where
  pos := Nat.zero_le 16
  mem := ⟨List.Pairwise.nil, List.forall_mem_nil _⟩
  busyNotDone := fun _ => rfl
  cmdIsLatched := fun _ h => nomatch h

end Sys2Proof.Machine
end

section
/-! PROOFS. Every POLL ends (70_reset_and_hazards.md R310, 60_exceptions.md R271, 30_encoding.md R98): a pending command
completes when the engine moves, and a polling host puts that off only while it has contested turns left. -/

namespace Sys2Proof.Machine

variable {s t : State} {rest : List HostOp}

theorem State.after_succ (h : step s = .next t) (n : Nat) : s.after (n + 1) = t.after n := by
  simp only [State.after, h]

/-- With no command pending no step is contested, and no turn is used up (log 2). -/
theorem State.takeTurn_of_idle (h : s.busy = false) : s.takeTurn = s := by simp [State.takeTurn, State.contested, h]

/-- The engine's step completes the pending command and keeps the host's program (R270, R271). -/
theorem step_of_engine_completes (h : s.mover = .engine) :
    ∃ t, step s = .next t ∧ t.busy = false ∧ t.done = true ∧ t.program = s.program := by
  obtain ⟨t, ht⟩ := step_of_mover_ne_host (s := s) (by rw [h]; decide)
  refine ⟨t, ht, ?_⟩
  obtain ⟨hm, -⟩ | ⟨hm, -⟩ | ⟨-, i, -, hi⟩ | ⟨-, -, rfl⟩ := step_cases ht
  · cases hm.symm.trans h
  · cases hm.symm.trans h
  · obtain ⟨hlatch, hdone⟩ := exec_completes hi
    obtain ⟨-, -, -, -, -, -, hprog, -, -⟩ := commandsKeepOtherRegisters _ _ _ hi
    exact ⟨State.busy_eq_false_of_latch hlatch, hdone, hprog.trans s.takeTurn_program⟩
  · exact ⟨rfl, rfl, s.takeTurn_program⟩

/-- A POLL while BUSY = 0 is one step: STATUS is read once (R98). -/
theorem step_poll_of_idle (hb : s.busy = false) (hp : s.program = .poll :: rest) :
    step s = .next { s with program := rest, replies := s.replies ++ [.word (statusWord s)] } := by
  have hm : s.mover = .host := by rw [State.mover_of_idle hb, hp, List.isEmpty_cons, if_neg Bool.false_ne_true]
  rw [step_of_host hm hp, State.takeTurn_of_idle hb]
  exact hostOp_poll_of_idle hb

/-- A contested turn that a POLL takes: STATUS is read, and the command and the POLL are still to be done (R98). -/
theorem step_poll_of_busy {turns : List Turn} (hb : s.busy = true) (hp : s.program = .poll :: rest)
    (ht : s.turns = .host :: turns) :
    ∃ t, step s = .next t ∧ t.busy = true ∧ t.program = .poll :: rest ∧ t.turns = turns := by
  have hm : s.mover = .host := by simp [State.mover, hb, hp, ht]
  have hturn : s.takeTurn = { s with turns := turns } := by
    rw [State.takeTurn_of_busy hb, if_neg (by simp [hp]), ht, List.tail_cons]
  rw [step_of_host hm hp, hturn]
  exact ⟨_, hostOp_poll_of_busy hb, hb, rfl, rfl⟩

/-- Once the engine moves, the command and the POLL are done within two steps: its completion, and the POLL's last read
of STATUS (R98, R271). -/
theorem poll_ends_of_engine (hm : s.mover = .engine) (hp : s.program = .poll :: rest) :
    ∃ t, s.after 2 = some t ∧ t.busy = false ∧ t.done = true ∧ t.program = rest := by
  obtain ⟨u, hu, hbusy, hdone, hprog⟩ := step_of_engine_completes hm
  have hpoll := step_poll_of_idle hbusy (hprog.trans hp)
  exact ⟨_, (State.after_succ hu 1).trans (State.after_succ hpoll 0), hbusy, hdone, rfl⟩

/-- By induction on the contested turns left: the host uses up one and polls on, or the engine moves (R310; log 2). -/
theorem poll_ends_of_busy (hb : s.busy = true) (hp : s.program = .poll :: rest) :
    ∃ n t, n ≤ s.turns.length + 2 ∧ s.after n = some t ∧ t.busy = false ∧ t.done = true ∧ t.program = rest := by
  induction hts : s.turns generalizing s with
  | nil =>
    obtain ⟨t, ht⟩ := poll_ends_of_engine (by simp [State.mover, hb, hp, hts]) hp
    exact ⟨2, t, Nat.le_add_left _ _, ht⟩
  | cons turn turns ih =>
    cases turn with
    | engine =>
      obtain ⟨t, ht⟩ := poll_ends_of_engine (by simp [State.mover, hb, hp, hts]) hp
      exact ⟨2, t, Nat.le_add_left _ _, ht⟩
    | host =>
      obtain ⟨u, hu, hub, hup, hut⟩ := step_poll_of_busy hb hp hts
      obtain ⟨n, t, hn, ht, hend⟩ := ih hub hup hut
      refine ⟨n + 1, t, ?_, (State.after_succ hu n).trans ht, hend⟩
      rw [List.length_cons]
      omega

/-- Settles O60: idle, a POLL is one step; busy, by induction on the contested turns left. -/
theorem everyPollEnds : Obligations.EveryPollEnds :=
  ⟨fun _ _ => step_poll_of_idle, fun _ _ => poll_ends_of_busy⟩

end Sys2Proof.Machine
end
